-- ==== Sys2Proof/Word.lean ====
section
/-! DEFINITION. The two sizes of data of the MFD-0816 (spec 00_scope.md R7). -/

namespace Sys2Proof

/-- 8 bits; the halves of a word (R7, R13). -/
abbrev Byte := BitVec 8

/-- 16 bits: registers, addresses and the unit of data (R7, R13). -/
abbrev Word := BitVec 16

end Sys2Proof
end

