-- ==== Sys2Proof/Config.lean ====
section
/-! DEFINITION. The named parameters of spec 00_scope.md R8 at the spec's defaults, and the values that
nothing constrains. The parameter Env is no constant: the four peers of R8 are plain data in State, which the step
reads, so that a statement for all states holds for every environment (`inputs` holds the reset source, the
interrupt source and the memory peer, `ioAnswers` the I/O peer; logs 5, 6, 21). -/

namespace Sys2Proof

/-- BYTE_ORDER (20_memory.md R62). -/
inductive ByteOrder where
  | little
  | big
deriving DecidableEq, Repr

/-- REL_BASE (30_encoding.md R103). -/
inductive RelBase where
  | instructionStart
  | nextInstruction
deriving DecidableEq, Repr

/-- ZF_RULE (90_conflicts.md C2). -/
inductive ZfRule where
  | isr
  | tso
deriving DecidableEq, Repr

/-- FLAGS_SILENT (92_eei_decisions.md D17). -/
inductive FlagsSilent where
  | unchanged
  | anyValue
deriving DecidableEq, Repr

/-- AR_MODEL (92_eei_decisions.md D19). D19 says no more of the last two than their names: what `mirrorsResult` puts in
AR after CMP, TEST or an 8-bit operation is the model's choice (`Machine.arAfter`, log 4). -/
inductive ArModel where
  | anyValue
  | mirrorsResult
  | neverWritten
deriving DecidableEq, Repr

/-- IDIV_ROUND (92_eei_decisions.md D20). The spec names no value but the default; `down` is the model's (log 15). -/
inductive IdivRound where
  | towardZero
  | down
deriving DecidableEq, Repr

/-- IDIV_OVERFLOW (92_eei_decisions.md D20). The spec names no value but the default; `divideError` is the model's
(log 15). -/
inductive IdivOverflow where
  | wrap
  | divideError
deriving DecidableEq, Repr

/-- IO_OPERAND_READING (44_io.md R205). -/
inductive IoOperandReading where
  | address
  | value
deriving DecidableEq, Repr

/-- HALT_CONVENTION (70_reset_and_hazards.md R289). The spec names no value but the default; `never` is the model's
(log 24). -/
inductive HaltConvention where
  | jumpToSelf
  | never
deriving DecidableEq, Repr

/-- DESIGN CHOICE of the spec, D1 (log 1). -/
def Config.byteOrder : ByteOrder := .little

/-- DESIGN CHOICE of the spec, D7 (log 12). -/
def Config.relBase : RelBase := .instructionStart

/-- DESIGN CHOICE of the spec, C2 (log 13). -/
def Config.zfRule : ZfRule := .isr

/-- DESIGN CHOICE of the spec, D17 (log 14). -/
def Config.flagsSilent : FlagsSilent := .unchanged

/-- DESIGN CHOICE of the spec, D19 (log 4). -/
def Config.arModel : ArModel := .anyValue

/-- DESIGN CHOICE of the spec, D20 (log 15). -/
def Config.idivRound : IdivRound := .towardZero

/-- DESIGN CHOICE of the spec, D20 (log 15). -/
def Config.idivOverflow : IdivOverflow := .wrap

/-- DESIGN CHOICE of the spec, D23 (log 16). -/
def Config.ioOperandReading : IoOperandReading := .address

/-- DESIGN CHOICE of the spec, D29 (log 24). -/
def Config.haltConvention : HaltConvention := .jumpToSelf

/-- BLOCK_MEM_STRIDE. DESIGN CHOICE of the spec, D23 (log 16). -/
def Config.blockMemStride : Word := 0

/-- The k-th free word of a run: the spec's `any` (00_scope.md R11). It has no body, so nothing can be
proved of its value (log 4). -/
opaque Config.freeWord : Nat → Word

/-- What the I/O peer puts on the bus for an `IoRead` that no scripted answer covers, by the number of the
draw and the I/O address (20_memory.md R72, log 5). -/
opaque Config.ioAnswer : Nat → Word → Word

end Sys2Proof
end

