-- ==== Sys2Proof/Syntax.lean ====
section
/-! DEFINITION. The instructions of the MFD-0816 (spec 30_encoding.md R107), one constructor a row of
spec/opcode_table.json, and their operands (R93, R94). -/

namespace Sys2Proof

/-- The seventeen register names of 10_state.md R30. -/
inductive Reg where
  | al | ah | acl | bl | bh | bcl | cl | ch | ccl | dl | dh | dcl | sp | ip | ar | fl | iid
deriving DecidableEq, Repr

/-- The two low bits of a mode field: 00, 01, 10 (R93); 11 is no mode (R95). -/
inductive Form where
  | plain
  | direct
  | indirect
deriving DecidableEq, Repr

/-- An operand: the register bit chooses the constructor, the relative bit is `rel` (it is kept for a plain
operand too, where R96 gives it no effect), and the literal is a word or a register number (R97). -/
inductive Operand where
  | lit (form : Form) (rel : Bool) (value : Word)
  | reg (form : Form) (rel : Bool) (r : Reg)
deriving DecidableEq, Repr

/-- The operand classes of R102. -/
inductive OperandClass where
  | V
  | R
  | VI
  | I
  | L
  | M
deriving DecidableEq, Repr

/-- One constructor a row of the opcode map R107, operands in the order of the encoding. -/
inductive Instr where
  | adc (a : Operand)
  | add (a : Operand)
  | and (a : Operand)
  | bin (a b : Operand)
  | bot (a b : Operand)
  | call (a : Operand)
  | cmp (a b : Operand)
  | dec (a : Operand)
  | div (a : Operand)
  | idiv (a : Operand)
  | imul (a : Operand)
  | inp (a b : Operand)
  | inc (a : Operand)
  | int (a : Operand)
  | iret
  | jmp (a : Operand)
  | jz (a : Operand)
  | jg (a : Operand)
  | jge (a : Operand)
  | jl (a : Operand)
  | jle (a : Operand)
  | jc (a : Operand)
  | js (a : Operand)
  | jnz (a : Operand)
  | jnc (a : Operand)
  | jns (a : Operand)
  | ld (a b : Operand)
  | mov (a b : Operand)
  | mul (a : Operand)
  | neg (a : Operand)
  | nop
  | not (a : Operand)
  | or (a : Operand)
  | out (a b : Operand)
  | pop (a : Operand)
  | push (a : Operand)
  | ret
  | rol (a b : Operand)
  | ror (a b : Operand)
  | sl (a b : Operand)
  | sr (a b : Operand)
  | st (a b : Operand)
  | clo
  | clc
  | clz
  | cln
  | cli
  | sto
  | stc
  | stz
  | stn
  | sti
  | sub (a : Operand)
  | test (a : Operand)
  | xor (a : Operand)
deriving DecidableEq, Repr

end Sys2Proof
end

