-- ==== Sys2Proof/WellFormed.lean ====
section
/-! DEFINITION. Which terms of Syntax.lean are instructions: every operand in the class that spec
30_encoding.md R107 gives its place (R102). -/

namespace Sys2Proof

/-- Whether a mode (register bit, two low bits) is in an operand class; the relative bit never matters
(R102). -/
def OperandClass.accepts (c : OperandClass) (isReg : Bool) (form : Form) : Bool :=
  match c with
  | .V => true
  | .R => isReg && form == .plain
  | .VI => form == .plain
  | .I => !isReg && form == .plain
  | .L => isReg || form != .plain
  | .M => form != .plain

/-- Whether an operand's mode is in the class `c` (R102). -/
def Operand.fits (c : OperandClass) : Operand → Bool
  | .lit form _ _ => c.accepts false form
  | .reg form _ _ => c.accepts true form

/-- The operands of an instruction, each with the class R107 gives its place. -/
def Instr.form : Instr → List (OperandClass × Operand)
  | .adc a => [(.V, a)]
  | .add a => [(.V, a)]
  | .and a => [(.V, a)]
  | .bin a b => [(.V, a), (.V, b)]
  | .bot a b => [(.V, a), (.V, b)]
  | .call a => [(.V, a)]
  | .cmp a b => [(.V, a), (.V, b)]
  | .dec a => [(.R, a)]
  | .div a => [(.V, a)]
  | .idiv a => [(.V, a)]
  | .imul a => [(.V, a)]
  | .inp a b => [(.V, a), (.V, b)]
  | .inc a => [(.R, a)]
  | .int a => [(.I, a)]
  | .iret => []
  | .jmp a => [(.V, a)]
  | .jz a => [(.V, a)]
  | .jg a => [(.V, a)]
  | .jge a => [(.V, a)]
  | .jl a => [(.V, a)]
  | .jle a => [(.V, a)]
  | .jc a => [(.V, a)]
  | .js a => [(.V, a)]
  | .jnz a => [(.V, a)]
  | .jnc a => [(.V, a)]
  | .jns a => [(.V, a)]
  | .ld a b => [(.R, a), (.V, b)]
  | .mov a b => [(.VI, a), (.R, b)]
  | .mul a => [(.V, a)]
  | .neg a => [(.L, a)]
  | .nop => []
  | .not a => [(.L, a)]
  | .or a => [(.V, a)]
  | .out a b => [(.V, a), (.V, b)]
  | .pop a => [(.L, a)]
  | .push a => [(.V, a)]
  | .ret => []
  | .rol a b => [(.L, a), (.V, b)]
  | .ror a b => [(.L, a), (.V, b)]
  | .sl a b => [(.L, a), (.V, b)]
  | .sr a b => [(.L, a), (.V, b)]
  | .st a b => [(.V, a), (.M, b)]
  | .clo => []
  | .clc => []
  | .clz => []
  | .cln => []
  | .cli => []
  | .sto => []
  | .stc => []
  | .stz => []
  | .stn => []
  | .sti => []
  | .sub a => [(.V, a)]
  | .test a => [(.V, a)]
  | .xor a => [(.V, a)]

/-- An instruction the encoding can hold: each operand fits its class (R102, R110). -/
def Instr.wellFormed (i : Instr) : Bool := i.form.all fun p => p.2.fits p.1

end Sys2Proof
end

