-- ==== Sys2Proof/Decode.lean ====
section
/-! DEFINITION. Bytes to instructions and back (spec 30_encoding.md R90 to R111), and the byte helpers that
memory uses too. -/

namespace Sys2Proof

/-! ## Words and bytes -/

/-- The low byte of a word (00_scope.md R9). -/
def loByte (w : Word) : Byte := w.extractLsb' 0 8

/-- The high byte of a word (00_scope.md R9). -/
def hiByte (w : Word) : Byte := w.extractLsb' 8 8

/-- The word with the given high and low bytes, `hi ++ lo` (00_scope.md R11). -/
def ofHiLo (hi lo : Byte) : Word := hi ++ lo

/-- The word whose first byte in memory is `x` and second `y`, by BYTE_ORDER (20_memory.md R62, R64). -/
def wordOfBytes (x y : Byte) : Word :=
  match Config.byteOrder with
  | .little => ofHiLo y x
  | .big => ofHiLo x y

/-- The byte of a word at its lower address, by BYTE_ORDER (20_memory.md R62, R65). -/
def firstByte (w : Word) : Byte :=
  match Config.byteOrder with
  | .little => loByte w
  | .big => hiByte w

/-- The byte of a word at its higher address, by BYTE_ORDER (20_memory.md R62, R65). -/
def secondByte (w : Word) : Byte :=
  match Config.byteOrder with
  | .little => hiByte w
  | .big => loByte w

/-- A word's two bytes in address order. -/
def wordBytes (w : Word) : List Byte := [firstByte w, secondByte w]

/-! ## Register numbers and mode fields -/

/-- The identification number of a register (10_state.md R30). -/
def Reg.number : Reg → Byte
  | .al => 0x00 | .ah => 0x01 | .acl => 0x02 | .bl => 0x03 | .bh => 0x04 | .bcl => 0x05
  | .cl => 0x06 | .ch => 0x07 | .ccl => 0x08 | .dl => 0x09 | .dh => 0x0A | .dcl => 0x0B
  | .sp => 0x0C | .ip => 0x0D | .ar => 0x0E | .fl => 0x0F | .iid => 0x10

/-- The register with an identification number; 0x11 to 0xFF name none (10_state.md R30). -/
def Reg.ofNumber (b : Byte) : Option Reg :=
  match b.toNat with
  | 0x00 => some .al | 0x01 => some .ah | 0x02 => some .acl | 0x03 => some .bl
  | 0x04 => some .bh | 0x05 => some .bcl | 0x06 => some .cl | 0x07 => some .ch
  | 0x08 => some .ccl | 0x09 => some .dl | 0x0A => some .dh | 0x0B => some .dcl
  | 0x0C => some .sp | 0x0D => some .ip | 0x0E => some .ar | 0x0F => some .fl
  | 0x10 => some .iid
  | _ => none

/-- The form a mode field's bits 1 and 0 give; both set is no mode (R93, R95). -/
def formOfMode (m : BitVec 4) : Option Form :=
  match m.getLsbD 1, m.getLsbD 0 with
  | false, false => some .plain
  | false, true => some .direct
  | true, false => some .indirect
  | true, true => none

/-- Bits 1 and 0 of the mode field (R93). -/
def Form.bits : Form → BitVec 4
  | .plain => 0b0000
  | .direct => 0b0001
  | .indirect => 0b0010

/-- The mode field of an operand: register, relative, indirect and direct bits (R93). -/
def Operand.mode : Operand → BitVec 4
  | .lit form rel _ => form.bits ||| (if rel then 0b0100 else 0)
  | .reg form rel _ => form.bits ||| (if rel then 0b0100 else 0) ||| 0b1000

/-- The literal of an operand as it lies in memory: two bytes, or one with the register bit (R97). -/
def Operand.literalBytes : Operand → List Byte
  | .lit _ _ v => wordBytes v
  | .reg _ _ r => [r.number]

/-- The length of an operand's literal in bytes (R97, R99). -/
def Operand.size : Operand → Nat
  | .lit _ _ _ => 2
  | .reg _ _ _ => 1

/-! ## Decoding -/

/-- Why bytes are no instruction: the checks of R111, and bytes that end too soon. -/
inductive DecodeError where
  /-- the opcode is one of the 201 unassigned values (R108) -/
  | illegalOpcode
  /-- a used mode field has bits 1 and 0 both set (R95) -/
  | invalidAddressingMode
  /-- a valid mode outside the operand's class (R110) -/
  | illegalOperandMode
  /-- a register literal above 0x10 (R100) -/
  | invalidRegister
  /-- a mode field that the instruction does not use is not 0000 (R101) -/
  | unusedModeField
  /-- the bytes given end inside the instruction -/
  | truncated
deriving DecidableEq, Repr

/-- One operand by the loop body of R111: its mode, its class, its literal; and the bytes after it. -/
def decodeOperand (c : OperandClass) (m : BitVec 4) (bs : List Byte) :
    Except DecodeError (Operand × List Byte) :=
  match formOfMode m with
  | none => .error .invalidAddressingMode
  | some form =>
    if c.accepts (m.getLsbD 3) form then
      if m.getLsbD 3 then
        match bs with
        | b :: rest =>
          match Reg.ofNumber b with
          | some r => .ok (.reg form (m.getLsbD 2) r, rest)
          | none => .error .invalidRegister
        | [] => .error .truncated
      else
        match bs with
        | x :: y :: rest => .ok (.lit form (m.getLsbD 2) (wordOfBytes x y), rest)
        | _ => .error .truncated
    else .error .illegalOperandMode

/-- A row of the opcode map: the operand classes and the instruction made of the operands (R107). -/
inductive Row where
  | zero (i : Instr)
  | one (c : OperandClass) (mk : Operand → Instr)
  | two (c d : OperandClass) (mk : Operand → Operand → Instr)

/-- The opcode map R107; the opcodes without a row are those of R108. -/
def rowOf (opcode : Byte) : Option Row :=
  match opcode.toNat with
  | 0x00 => some (.one .V .adc)
  | 0x01 => some (.one .V .add)
  | 0x02 => some (.one .V .and)
  | 0x03 => some (.two .V .V .bin)
  | 0x04 => some (.two .V .V .bot)
  | 0x05 => some (.one .V .call)
  | 0x07 => some (.two .V .V .cmp)
  | 0x08 => some (.one .R .dec)
  | 0x09 => some (.one .V .div)
  | 0x0A => some (.one .V .idiv)
  | 0x0B => some (.one .V .imul)
  | 0x0C => some (.two .V .V .inp)
  | 0x0D => some (.one .R .inc)
  | 0x0E => some (.one .I .int)
  | 0x0F => some (.zero .iret)
  | 0x10 => some (.one .V .jmp)
  | 0x11 => some (.one .V .jz)
  | 0x12 => some (.one .V .jg)
  | 0x13 => some (.one .V .jge)
  | 0x14 => some (.one .V .jl)
  | 0x15 => some (.one .V .jle)
  | 0x16 => some (.one .V .jc)
  | 0x17 => some (.one .V .js)
  | 0x18 => some (.one .V .jnz)
  | 0x19 => some (.one .V .jnc)
  | 0x1A => some (.one .V .jns)
  | 0x1B => some (.two .R .V .ld)
  | 0x1C => some (.two .VI .R .mov)
  | 0x1D => some (.one .V .mul)
  | 0x1E => some (.one .L .neg)
  | 0x1F => some (.zero .nop)
  | 0x20 => some (.one .L .not)
  | 0x21 => some (.one .V .or)
  | 0x22 => some (.two .V .V .out)
  | 0x23 => some (.one .L .pop)
  | 0x24 => some (.one .V .push)
  | 0x25 => some (.zero .ret)
  | 0x26 => some (.two .L .V .rol)
  | 0x27 => some (.two .L .V .ror)
  | 0x28 => some (.two .L .V .sl)
  | 0x29 => some (.two .L .V .sr)
  | 0x2A => some (.two .V .M .st)
  | 0x2B => some (.zero .clo)
  | 0x2C => some (.zero .clc)
  | 0x2D => some (.zero .clz)
  | 0x2E => some (.zero .cln)
  | 0x2F => some (.zero .cli)
  | 0x3B => some (.zero .sto)
  | 0x3C => some (.zero .stc)
  | 0x3D => some (.zero .stz)
  | 0x3E => some (.zero .stn)
  | 0x3F => some (.zero .sti)
  | 0x4B => some (.one .V .sub)
  | 0x4C => some (.one .V .test)
  | 0x4D => some (.one .V .xor)
  | _ => none

/-- The decoding of R111 after the opcode is known: operands in order, then the unused mode fields. -/
def Row.decode (row : Row) (mode1 mode2 : BitVec 4) (bs : List Byte) : Except DecodeError Instr :=
  match row with
  | .zero i => if mode1 = 0 ∧ mode2 = 0 then .ok i else .error .unusedModeField
  | .one c mk =>
    match decodeOperand c mode1 bs with
    | .error e => .error e
    | .ok (a, _) => if mode2 = 0 then .ok (mk a) else .error .unusedModeField
  | .two c d mk =>
    match decodeOperand c mode1 bs with
    | .error e => .error e
    | .ok (a, rest) =>
      match decodeOperand d mode2 rest with
      | .error e => .error e
      | .ok (b, _) => .ok (mk a b)

/-- The decoder of R111 on the instruction word and the bytes after it: opcode 15..8, mode1 7..4, mode2
3..0 (R91). -/
def decodeWord (w : Word) (bs : List Byte) : Except DecodeError Instr :=
  match rowOf (hiByte w) with
  | none => .error .illegalOpcode
  | some row => row.decode (w.extractLsb' 4 4) (w.extractLsb' 0 4) bs

/-- The decoder on the bytes at an instruction's address, in address order (R92, R111). -/
def decode : List Byte → Except DecodeError Instr
  | x :: y :: rest => decodeWord (wordOfBytes x y) rest
  | _ => .error .truncated

/-! ## Encoding -/

/-- The opcode of R107. -/
def Instr.opcode : Instr → Byte
  | .adc _ => 0x00
  | .add _ => 0x01
  | .and _ => 0x02
  | .bin _ _ => 0x03
  | .bot _ _ => 0x04
  | .call _ => 0x05
  | .cmp _ _ => 0x07
  | .dec _ => 0x08
  | .div _ => 0x09
  | .idiv _ => 0x0A
  | .imul _ => 0x0B
  | .inp _ _ => 0x0C
  | .inc _ => 0x0D
  | .int _ => 0x0E
  | .iret => 0x0F
  | .jmp _ => 0x10
  | .jz _ => 0x11
  | .jg _ => 0x12
  | .jge _ => 0x13
  | .jl _ => 0x14
  | .jle _ => 0x15
  | .jc _ => 0x16
  | .js _ => 0x17
  | .jnz _ => 0x18
  | .jnc _ => 0x19
  | .jns _ => 0x1A
  | .ld _ _ => 0x1B
  | .mov _ _ => 0x1C
  | .mul _ => 0x1D
  | .neg _ => 0x1E
  | .nop => 0x1F
  | .not _ => 0x20
  | .or _ => 0x21
  | .out _ _ => 0x22
  | .pop _ => 0x23
  | .push _ => 0x24
  | .ret => 0x25
  | .rol _ _ => 0x26
  | .ror _ _ => 0x27
  | .sl _ _ => 0x28
  | .sr _ _ => 0x29
  | .st _ _ => 0x2A
  | .clo => 0x2B
  | .clc => 0x2C
  | .clz => 0x2D
  | .cln => 0x2E
  | .cli => 0x2F
  | .sto => 0x3B
  | .stc => 0x3C
  | .stz => 0x3D
  | .stn => 0x3E
  | .sti => 0x3F
  | .sub _ => 0x4B
  | .test _ => 0x4C
  | .xor _ => 0x4D

/-- The operands of an instruction, in order. -/
def Instr.operands (i : Instr) : List Operand := i.form.map Prod.snd

/-- The length in bytes (R99). -/
def Instr.length (i : Instr) : Nat := 2 + (i.operands.map Operand.size).sum

/-- The instruction word `opcode mode1 mode2` (R91). -/
def instructionWord (opcode : Byte) (mode1 mode2 : BitVec 4) : Word := opcode ++ (mode1 ++ mode2)

/-- The first two mode fields of an operand list; an absent operand's is 0000 (R101). -/
def modeFields : List Operand → BitVec 4 × BitVec 4
  | [] => (0, 0)
  | [a] => (a.mode, 0)
  | a :: b :: _ => (a.mode, b.mode)

/-- An instruction's bytes in address order: the instruction word, then the literals (R90, R92, R98). -/
def encode (i : Instr) : List Byte :=
  wordBytes (instructionWord i.opcode (modeFields i.operands).1 (modeFields i.operands).2) ++
    i.operands.flatMap Operand.literalBytes

/-! ## The host's table words -/

/-- The six bytes that hold an instruction whose bits are `w`, numbered from the first word's bit 0 up and
zero from bit `nbits` on, each word in its byte order. -/
def tableBytes (nbits w : Nat) : List Byte :=
  [0, 1, 2].flatMap fun k => wordBytes (BitVec.ofNat 16 ((w % 2 ^ nbits) >>> (16 * k)))

/-- The instruction the decoder reads from a table word. -/
def decodeTableWord (nbits w : Nat) : Option Instr :=
  match decode (tableBytes nbits w) with
  | .ok i => some i
  | .error _ => none

end Sys2Proof
end

