-- ==== Sys2Proof/Machine/Flags.lean ====
section
/-! DEFINITION. The bits of FL (spec 10_state.md R27) and every flag and result computation of
40_arithmetic.md, 41_logic_shift.md and 43_control_flow.md, over plain words. -/

namespace Sys2Proof.Machine

/-- The named bits of FL (10_state.md R27). -/
inductive Flag where
  | of | cf | zf | nf | ie | rt
deriving DecidableEq, Repr

/-- The bit of FL that holds a flag (R27). -/
def Flag.bit : Flag → Nat
  | .of => 15 | .cf => 14 | .zf => 13 | .nf => 12 | .ie => 11 | .rt => 10

/-- A flag's value in a flags word. -/
def getFlag (f : Flag) (fl : Word) : Bool := fl.getLsbD f.bit

/-- A flags word with one flag written and every other bit kept. -/
def putFlag (f : Flag) (b : Bool) (fl : Word) : Word :=
  if b then fl ||| BitVec.twoPow 16 f.bit else fl &&& ~~~ BitVec.twoPow 16 f.bit

/-- The four status flags (10_state.md R28). -/
def statusFlags : List Flag := [.of, .cf, .zf, .nf]

/-! ## Addition and subtraction -/

/-- Whether an exact result is outside the signed 16-bit range (R130, R131). -/
def signedOverflow (x : Int) : Bool := decide (x < -32768 ∨ 32767 < x)

/-- The zero flag of ADC, ADD, SUB and CMP, by ZF_RULE (R130, R131, 90_conflicts.md C2). -/
def zeroFlag (r : Word) (cf of : Bool) : Bool :=
  match Config.zfRule with
  | .isr => r == 0 && !cf && !of
  | .tso => r == 0

/-- CF, OF, NF and ZF written together, the other bits of FL kept. -/
def putStatus (r : Word) (cf of : Bool) (fl : Word) : Word :=
  putFlag .of of (putFlag .cf cf (putFlag .zf (zeroFlag r cf of) (putFlag .nf (r.getLsbD 15) fl)))

/-- `AddFlags` (R130): the result and the new FL. -/
def addFlags (a b : Word) (c : Bool) (fl : Word) : Word × Word :=
  let s := a.toNat + b.toNat + c.toNat
  let r := BitVec.ofNat 16 s
  (r, putStatus r (decide (2 ^ 16 ≤ s)) (signedOverflow (a.toInt + b.toInt + c.toNat)) fl)

/-- `SubFlags` (R131), minuend first: the result and the new FL; CF is the borrow. -/
def subFlags (a b : Word) (fl : Word) : Word × Word :=
  let r := a - b
  (r, putStatus r (decide (a.toNat < b.toNat)) (signedOverflow (a.toInt - b.toInt)) fl)

/-! ## Multiplication and division -/

/-- CF and OF both written (R140, R141). -/
def putCarryOverflow (f : Bool) (fl : Word) : Word := putFlag .cf f (putFlag .of f fl)

/-- MUL (R140): the low half of the unsigned product, and CF = OF = the high half is not 0. -/
def mulFlags (a b : Word) (fl : Word) : Word × Word :=
  let p := a.toNat * b.toNat
  (BitVec.ofNat 16 p, putCarryOverflow (decide (2 ^ 16 ≤ p)) fl)

/-- IMUL (R141): the product modulo 2^16, and CF = OF = the stored result's high byte is not 0. -/
def imulFlags (a b : Word) (fl : Word) : Word × Word :=
  let r := BitVec.ofInt 16 (a.toInt * b.toInt)
  (r, putCarryOverflow (r.extractLsb' 8 8 != 0) fl)

/-- The quotient of IDIV, rounded by IDIV_ROUND (R143). -/
def idivQuotient (a d : Int) : Int :=
  match Config.idivRound with
  | .towardZero => a.tdiv d
  | .down => a.fdiv d

/-- Whether IDIV raises its exception for the quotient `q`: never under the default of IDIV_OVERFLOW (R143). -/
def idivRaises (q : Int) : Bool :=
  match Config.idivOverflow with
  | .wrap => false
  | .divideError => signedOverflow q

/-- IDIV (R143): the quotient modulo 2^16. -/
def idivStore (q : Int) : Word := BitVec.ofInt 16 q

/-! ## Logic -/

/-- `AndFlags` (R150): ZF assigned, OF and CF cleared, NF kept. -/
def andFlags (r : Word) (fl : Word) : Word :=
  putFlag .zf (r == 0) (putFlag .of false (putFlag .cf false fl))

/-! ## Operations at the width `w` of a location; `v` and the result are below 2^w -/

/-- `(v + 1) mod 2^w` (R137). -/
def incAt (w : Nat) (v : Word) : Word := BitVec.ofNat 16 ((v.toNat + 1) % 2 ^ w)

/-- `(v - 1) mod 2^w` (R138). -/
def decAt (w : Nat) (v : Word) : Word := BitVec.ofNat 16 ((v.toNat + (2 ^ w - 1)) % 2 ^ w)

/-- `(0 - v) mod 2^w` (R139). -/
def negAt (w : Nat) (v : Word) : Word := BitVec.ofNat 16 ((2 ^ w - v.toNat) % 2 ^ w)

/-- `(2^w - 1) - v` (R154). -/
def notAt (w : Nat) (v : Word) : Word := BitVec.ofNat 16 (2 ^ w - 1 - v.toNat)

/-- SL by the full count `n` (R157). -/
def shiftLeftAt (w : Nat) (v : Word) (n : Nat) : Word :=
  if n < w then BitVec.ofNat 16 (v.toNat * 2 ^ n % 2 ^ w) else 0

/-- SR by the full count `n`, logical (R158). -/
def shiftRightAt (w : Nat) (v : Word) (n : Nat) : Word :=
  if n < w then BitVec.ofNat 16 (v.toNat / 2 ^ n) else 0

/-- ROL by `n mod w` (R159). -/
def rotateLeftAt (w : Nat) (v : Word) (n : Nat) : Word :=
  BitVec.ofNat 16 ((v.toNat * 2 ^ (n % w) % 2 ^ w) ||| (v.toNat / 2 ^ (w - n % w)))

/-- ROR by `n mod w` (R160). -/
def rotateRightAt (w : Nat) (v : Word) (n : Nat) : Word :=
  BitVec.ofNat 16 ((v.toNat / 2 ^ (n % w)) ||| (v.toNat * 2 ^ (w - n % w) % 2 ^ w))

/-! ## Conditions of the jumps -/

/-- ZF = 1: JZ (R187). -/
def condZ (fl : Word) : Bool := getFlag .zf fl
/-- ZF = 0 and NF = OF: JG (R188). -/
def condG (fl : Word) : Bool := !getFlag .zf fl && (getFlag .nf fl == getFlag .of fl)
/-- NF = OF: JGE (R189). -/
def condGe (fl : Word) : Bool := getFlag .nf fl == getFlag .of fl
/-- NF ≠ OF: JL (R190). -/
def condL (fl : Word) : Bool := getFlag .nf fl != getFlag .of fl
/-- ZF = 1 or NF ≠ OF: JLE (R191). -/
def condLe (fl : Word) : Bool := getFlag .zf fl || (getFlag .nf fl != getFlag .of fl)
/-- CF = 1: JC (R192). -/
def condC (fl : Word) : Bool := getFlag .cf fl
/-- NF = 1: JS (R193). -/
def condS (fl : Word) : Bool := getFlag .nf fl
/-- ZF = 0: JNZ (R194). -/
def condNz (fl : Word) : Bool := !getFlag .zf fl
/-- CF = 0: JNC (R195). -/
def condNc (fl : Word) : Bool := !getFlag .cf fl
/-- NF = 0: JNS (R196). -/
def condNs (fl : Word) : Bool := !getFlag .nf fl

end Sys2Proof.Machine
end

