-- ==== Sys2Proof/Machine/State.lean ====
section
/-! DEFINITION. The state of the MFD-0816: every register of spec 10_state.md, the memory, the fault mark of
60_exceptions.md R241, and the environment of 70_reset_and_hazards.md R288 as plain data. -/

namespace Sys2Proof.Machine

/-- The six causes of an exception (60_exceptions.md R242). -/
inductive Cause where
  /-- `push` with SP = 0 (R243) -/
  | stackOverflow
  /-- a used mode field with bits 0 and 1 both set (R244) -/
  | invalidAddressingMode
  /-- one of the 201 opcodes that are no instruction (R245) -/
  | illegalOpcode
  /-- a valid mode outside the operand's class (R246) -/
  | illegalOperandMode
  /-- a register literal above 0x10 (R247) -/
  | invalidRegister
  /-- DIV or IDIV by zero (R248) -/
  | divideByZero
deriving DecidableEq, Repr

/-- The number of an operand. -/
inductive OperandIndex where
  | first | second
deriving DecidableEq, Repr

/-- The reads of memory that one instruction, interrupt entry or reset performs, each under its own name: none of them
happens twice within one step, so that each can be answered on its own (20_memory.md R82, log 21). -/
inductive Access where
  /-- a byte of the instruction (30_encoding.md R99) -/
  | fetch
  /-- the pointer of an indirect operand (30_encoding.md R104, R105) -/
  | pointer (i : OperandIndex)
  /-- the value of a direct or indirect operand (30_encoding.md R104) -/
  | value (i : OperandIndex)
  /-- the old content of a location that is modified (30_encoding.md R105) -/
  | location
  /-- the word a pop takes (42_data_movement.md R171) -/
  | stack
  /-- the interrupt or the reset vector (20_memory.md R69) -/
  | vector
  /-- the `k`-th unit that OUT or BOT sends (44_io.md R207, R209) -/
  | unit (k : Nat)
deriving DecidableEq, Repr

/-- The byte the environment answers to one access of one address it owns. -/
structure MemAnswer where
  access : Access
  address : Word
  byte : Byte
deriving DecidableEq, Repr

/-- What the environment presents at one instruction boundary (70_reset_and_hazards.md R288): RESET, an interrupt
request with the id byte its device will put on the bus, the bytes that the memory peer places at addresses the
platform gives to a device, the last one winning, and those it answers, the first one winning, to accesses within the
step that begins here, since such an address may change between two accesses (20_memory.md R82, 92_eei_decisions.md
D26, D34, log 21). -/
structure Boundary where
  reset : Bool
  irq : Option Byte
  memory : List (Word × Byte)
  answers : List MemAnswer
deriving DecidableEq, Repr

/-- A boundary at which neither line is asserted and the memory peer places and answers nothing. -/
def Boundary.quiet : Boundary := { reset := false, irq := none, memory := [], answers := [] }

/-- One access to the I/O space, with the word moved (20_memory.md R72, R73). -/
inductive IoEvent where
  | read (address value : Word)
  | write (address value : Word)
deriving DecidableEq, Repr

/-- The machine. An exception sets `fault`; the other fields then hold the state before the faulting step
(60_exceptions.md R241). `draws` is the model's own counter of free values (log 4). -/
structure State where
  /-- 10_state.md R20, R21: AH is bits 15..8, AL bits 7..0 -/
  acl : Word
  /-- 10_state.md R20, R21 -/
  bcl : Word
  /-- 10_state.md R20, R21 -/
  ccl : Word
  /-- 10_state.md R20, R21 -/
  dcl : Word
  /-- 10_state.md R24 -/
  sp : Word
  /-- 10_state.md R25 -/
  ip : Word
  /-- 10_state.md R26 -/
  ar : Word
  /-- 10_state.md R27: OF 15, CF 14, ZF 13, NF 12, IE 11, RT 10, reserved 9..0 -/
  fl : Word
  /-- 10_state.md R37 -/
  iid : Word
  /-- the 2^16 bytes of 20_memory.md R60, in the canonical form of `Memory.wf` -/
  mem : List Host.Cell
  /-- the fault state of 60_exceptions.md R241 -/
  fault : Option Cause
  /-- the I/O events so far, in program order (20_memory.md R73) -/
  ioLog : List IoEvent
  /-- the peer's answers to the next I/O reads (20_memory.md R72, log 5) -/
  ioAnswers : List Word
  /-- what the memory peer answers to the accesses of the step under way (20_memory.md R82, log 21) -/
  memAnswers : List MemAnswer
  /-- the environment's inputs at the coming boundaries (logs 6, 21) -/
  inputs : List Boundary
  /-- how many free values have been drawn (the model's own, log 4) -/
  draws : Nat
deriving DecidableEq, Repr

/-- Host-level faults. The spec's exceptions are no host-level faults: they lead to a next state with the
fault mark set (log 7). -/
inductive Fault where
  /-- Raised by the step only if the decoder runs out of bytes. It never does, since the step fetches the six
  bytes of the longest instruction (log 8). Safe. -/
  | fetchTruncated
deriving DecidableEq, Repr

/-- What the spec gives no meaning (`refuse`, 93_implementation_defined.md). -/
inductive Refusal where
  /-- Raised by `exec` for an instruction that has no meaning yet. Safe. -/
  | notModelled (mnemonic : String)
  /-- Raised by the step: a mode field of an operand the instruction does not have is not 0000 (U3). Safe. -/
  | unusedModeField
  /-- Raised by the instructions that write a location: FL or IID as the destination (U5). Safe. -/
  | writeToFlOrIid
  /-- Raised by a push or pop with an odd SP (U7). Safe. -/
  | oddStackPointer
deriving DecidableEq, Repr

/-- What one step answers. -/
abbrev Result := Host.Outcome State Fault Refusal

/-- The machine after its first reset (10_state.md R40, R41): FL is 0 and IP is the word at 0xFFFE, which is 0
in a memory that lists nothing. ACL, BCL, CCL, DCL, SP, AR and IID are DESIGN CHOICE 0 (log 2), an unlisted
byte of memory reads DESIGN CHOICE 0 (log 3). -/
def State.reset : State :=
  { acl := 0, bcl := 0, ccl := 0, dcl := 0, sp := 0, ip := 0, ar := 0, fl := 0, iid := 0
    mem := [], fault := none, ioLog := [], ioAnswers := [], memAnswers := [], inputs := [], draws := 0 }

/-! Updates of one field. -/

/-- ACL replaced. -/
def State.setAcl (s : State) (v : Word) : State := { s with acl := v }
/-- BCL replaced. -/
def State.setBcl (s : State) (v : Word) : State := { s with bcl := v }
/-- CCL replaced. -/
def State.setCcl (s : State) (v : Word) : State := { s with ccl := v }
/-- DCL replaced. -/
def State.setDcl (s : State) (v : Word) : State := { s with dcl := v }
/-- SP replaced. -/
def State.setSp (s : State) (v : Word) : State := { s with sp := v }
/-- IP replaced. -/
def State.setIp (s : State) (v : Word) : State := { s with ip := v }
/-- AR replaced. -/
def State.setAr (s : State) (v : Word) : State := { s with ar := v }
/-- FL replaced. -/
def State.setFl (s : State) (v : Word) : State := { s with fl := v }
/-- IID replaced. -/
def State.setIid (s : State) (v : Word) : State := { s with iid := v }
/-- Memory replaced. -/
def State.setMem (s : State) (m : List Host.Cell) : State := { s with mem := m }
/-- The fault mark replaced. -/
def State.setFault (s : State) (c : Option Cause) : State := { s with fault := c }
/-- One more I/O event. -/
def State.logIo (s : State) (e : IoEvent) : State := { s with ioLog := s.ioLog ++ [e] }
/-- The peer's answers replaced. -/
def State.setIoAnswers (s : State) (l : List Word) : State := { s with ioAnswers := l }
/-- The memory peer's answers replaced. -/
def State.setMemAnswers (s : State) (l : List MemAnswer) : State := { s with memAnswers := l }
/-- The coming boundaries replaced. -/
def State.setInputs (s : State) (l : List Boundary) : State := { s with inputs := l }
/-- One free value used. -/
def State.countDraw (s : State) : State := { s with draws := s.draws + 1 }

end Sys2Proof.Machine
end

