-- ==== Sys2Proof/Machine/Ops.lean ====
section
/-! DEFINITION. The named operations over memory, registers, the stack and the I/O space; taking an
exception; entering an interrupt and returning from one; the reset sequence. -/

namespace Sys2Proof.Machine

/-! ## Memory -/

/-- What a byte of memory that nothing has written reads as. DESIGN CHOICE, unsafe (log 3). -/
def unlistedByte : Byte := 0

/-- The canonical form of memory: addresses strictly rising and below 2^16, and no entry equal to what an
unlisted address reads as. -/
def Memory.wf (m : List Host.Cell) : Bool :=
  decide (m.Pairwise fun x y => x.1 < y.1) && m.all fun c => decide (c.1 < 65536) && c.2 != unlistedByte

/-- The byte at an address. -/
def Memory.read : List Host.Cell → Nat → Byte
  | [], _ => unlistedByte
  | (k, c) :: rest, a => if k = a then c else Memory.read rest a

/-- The list without its entries for an address. -/
def Memory.erase (m : List Host.Cell) (a : Nat) : List Host.Cell := m.filter fun c => c.1 != a

/-- An entry put before the first one with a larger address. -/
def Memory.insert : List Host.Cell → Nat → Byte → List Host.Cell
  | [], a, b => [(a, b)]
  | (k, c) :: rest, a, b =>
    if a < k then (a, b) :: (k, c) :: rest else (k, c) :: Memory.insert rest a b

/-- A byte written, the canonical form kept: the value an unlisted address reads as is not listed. -/
def Memory.write (m : List Host.Cell) (a : Nat) (b : Byte) : List Host.Cell :=
  if b = unlistedByte then Memory.erase m a else Memory.insert (Memory.erase m a) a b

/-- The byte that memory holds at an address (20_memory.md R63). -/
def readByte (a : Word) (s : State) : Byte := Memory.read s.mem a.toNat

/-- The word that memory holds: the bytes at `a` and `a + 1` modulo 2^16 (20_memory.md R64, R68). -/
def readWord (a : Word) (s : State) : Word := wordOfBytes (readByte a s) (readByte (a + 1) s)

/-- What the memory peer answers to one access of an address, if it does (20_memory.md R82, log 21). -/
def peerAnswer (acc : Access) (a : Word) (s : State) : Option Byte :=
  (s.memAnswers.find? fun q => decide (q.access = acc ∧ q.address = a)).map MemAnswer.byte

/-- The byte an access loads: the memory peer's answer where it gives one, else what memory holds (20_memory.md
R82). -/
def loadByte (acc : Access) (a : Word) (s : State) : Byte := (peerAnswer acc a s).getD (readByte a s)

/-- The word an access loads, in the layout of `readWord`. -/
def loadWord (acc : Access) (a : Word) (s : State) : Word :=
  wordOfBytes (loadByte acc a s) (loadByte acc (a + 1) s)

/-- One byte of `MemWrite`. -/
def writeByte (a : Word) (b : Byte) (s : State) : State := s.setMem (Memory.write s.mem a.toNat b)

/-- `MemWrite(a, 2, v)` (20_memory.md R65, R68). -/
def writeWord (a v : Word) (s : State) : State :=
  writeByte (a + 1) (secondByte v) (writeByte a (firstByte v) s)

/-- Consecutive bytes stored from `a` on, modulo 2^16. -/
def storeBytes (a : Word) : List Byte → State → State
  | [], s => s
  | b :: bs, s => storeBytes (a + 1) bs (writeByte a b s)

/-- The bytes that the memory peer places (20_memory.md R82, log 21). -/
def placeBytes : List (Word × Byte) → State → State
  | [], s => s
  | p :: ps, s => placeBytes ps (writeByte p.1 p.2 s)

/-! ## Stopping inside an instruction -/

/-- Why a computation inside a step does not finish: an exception (60_exceptions.md R241) or a `refuse`
(93_implementation_defined.md). -/
inductive Halt where
  | raise (c : Cause)
  | refuse (r : Refusal)
deriving DecidableEq, Repr

/-- TAKING AN EXCEPTION (60_exceptions.md R241): the machine is in `Fault(c)` and everything else is the state
before the step. -/
def raise (c : Cause) (s : State) : Result := .next (s.setFault (some c))

/-- The outcome of a computation started in `s`: an exception drops all it did (R241, R258). -/
def conclude (s : State) : Except Halt State → Result
  | .ok t => .next t
  | .error (.raise c) => raise c s
  | .error (.refuse r) => .refused r

/-! ## Registers -/

/-- The width of a register (10_state.md R30). -/
def regWidth : Reg → Nat
  | .al | .ah | .bl | .bh | .cl | .ch | .dl | .dh => 8
  | _ => 16

/-- `zext_16(x[r])` (10_state.md R30, R31); IP reads as the address of the current instruction (R32). -/
def readReg (r : Reg) (s : State) : Word :=
  match r with
  | .al => ofHiLo 0 (loByte s.acl) | .ah => ofHiLo 0 (hiByte s.acl) | .acl => s.acl
  | .bl => ofHiLo 0 (loByte s.bcl) | .bh => ofHiLo 0 (hiByte s.bcl) | .bcl => s.bcl
  | .cl => ofHiLo 0 (loByte s.ccl) | .ch => ofHiLo 0 (hiByte s.ccl) | .ccl => s.ccl
  | .dl => ofHiLo 0 (loByte s.dcl) | .dh => ofHiLo 0 (hiByte s.dcl) | .dcl => s.dcl
  | .sp => s.sp | .ip => s.ip | .ar => s.ar | .fl => s.fl | .iid => s.iid

/-- A word with its low byte replaced by a value's low byte (10_state.md R21, R31). -/
def withLow (w v : Word) : Word := ofHiLo (hiByte w) (loByte v)

/-- A word with its high byte replaced by a value's low byte (10_state.md R21, R31). -/
def withHigh (w v : Word) : Word := ofHiLo (loByte v) (loByte w)

/-- `x[r] <- v` (10_state.md R31); FL and IID are refused (R33), a write of IP is the next instruction's address
(R34). -/
def writeReg (r : Reg) (v : Word) (s : State) : Except Halt State :=
  match r with
  | .al => .ok (s.setAcl (withLow s.acl v))
  | .ah => .ok (s.setAcl (withHigh s.acl v))
  | .acl => .ok (s.setAcl v)
  | .bl => .ok (s.setBcl (withLow s.bcl v))
  | .bh => .ok (s.setBcl (withHigh s.bcl v))
  | .bcl => .ok (s.setBcl v)
  | .cl => .ok (s.setCcl (withLow s.ccl v))
  | .ch => .ok (s.setCcl (withHigh s.ccl v))
  | .ccl => .ok (s.setCcl v)
  | .dl => .ok (s.setDcl (withLow s.dcl v))
  | .dh => .ok (s.setDcl (withHigh s.dcl v))
  | .dcl => .ok (s.setDcl v)
  | .sp => .ok (s.setSp v)
  | .ip => .ok (s.setIp v)
  | .ar => .ok (s.setAr v)
  | .fl | .iid => .error (.refuse .writeToFlOrIid)

/-! ## The stack -/

/-- A push or pop with an odd SP is `refuse` (42_data_movement.md R170, R171). -/
def checkEvenSp (s : State) : Except Halt Unit :=
  if s.sp.getLsbD 0 then .error (.refuse .oddStackPointer) else .ok ()

/-- `push(v)` (42_data_movement.md R170). -/
def push (v : Word) (s : State) : Except Halt State :=
  if s.sp = 0 then .error (.raise .stackOverflow)
  else (checkEvenSp s).map fun _ => writeWord (s.sp - 2) v (s.setSp (s.sp - 2))

/-- `pop()` (42_data_movement.md R171): the word and the state after. -/
def pop (s : State) : Except Halt (Word × State) :=
  (checkEvenSp s).map fun _ => (loadWord .stack s.sp s, s.setSp (s.sp + 2))

/-! ## The I/O space -/

/-- `IoRead(a)` (20_memory.md R72): the peer's next answer, a free value where none is scripted (log 5). -/
def ioRead (a : Word) (s : State) : Word × State :=
  match s.ioAnswers with
  | v :: rest => (v, (s.setIoAnswers rest).logIo (.read a v))
  | [] => (Config.ioAnswer s.draws a, s.countDraw.logIo (.read a (Config.ioAnswer s.draws a)))

/-- `IoWrite(a, v)`: an output event (20_memory.md R73). -/
def ioWrite (a v : Word) (s : State) : State := s.logIo (.write a v)

/-! ## The end of an arithmetic, logic or shift instruction -/

/-- The flags of `fs` each set to a bit of the free word `w`. -/
def freeFlags (w : Word) (fs : List Flag) (fl : Word) : Word :=
  fs.foldl (fun acc f => putFlag f (getFlag f w) acc) fl

/-- The status flags that the instruction's entry does not name, by FLAGS_SILENT (93_implementation_defined.md
U12). -/
def silentFlags (named : List Flag) (s : State) : State :=
  match Config.flagsSilent with
  | .unchanged => s
  | .anyValue =>
    (s.setFl (freeFlags (Config.freeWord s.draws) (statusFlags.filter fun f => !named.contains f) s.fl)).countDraw

/-- AR after the instruction, by AR_MODEL: by default a free value (40_arithmetic.md R132, log 4). DESIGN CHOICE, the
model's own (log 4): D19 gives the reading mirrors_result its name alone, and here it mirrors, as 16 bits, whatever the
instruction computes: the dropped result of CMP or TEST, an 8-bit result zero-extended, the low half of a product. -/
def arAfter (result : Word) (s : State) : State :=
  match Config.arModel with
  | .anyValue => (s.setAr (Config.freeWord s.draws)).countDraw
  | .mirrorsResult => s.setAr result
  | .neverWritten => s

/-- What every instruction of 40_arithmetic.md and 41_logic_shift.md does last. -/
def retireAlu (named : List Flag) (result : Word) (s : State) : State :=
  arAfter result (silentFlags named s)

/-! ## Interrupts -/

/-- The address of the interrupt vector (20_memory.md R69). -/
def interruptVector : Word := 0xFFFC

/-- The address of the reset vector (20_memory.md R69). -/
def resetVector : Word := 0xFFFE

/-- INTERRUPT ENTRY, shared by INT and the hardware interrupt (60_exceptions.md R254, R253, 45_flags_system.md
R231): IID gets the id, `ret` is pushed, then IP is read from the vector and IE cleared. -/
def enterInterrupt (id ret : Word) (s : State) : Except Halt State :=
  (push ret (s.setIid id)).map fun t =>
    (t.setIp (loadWord .vector interruptVector t)).setFl (putFlag .ie false t.fl)

/-- RETURN FROM INTERRUPT (45_flags_system.md R232): IE set, IID cleared, IP popped. -/
def returnFromInterrupt (s : State) : Except Halt State :=
  (pop s).map fun p => ((p.2.setIp p.1).setFl (putFlag .ie true s.fl)).setIid 0

/-- A hardware interrupt accepted at a boundary: the id byte zero-extended, the boundary's IP saved
(60_exceptions.md R253). -/
def acceptInterrupt (id : Byte) (s : State) : Result :=
  conclude s (enterInterrupt (ofHiLo 0 id) s.ip s)

/-! ## Reset -/

/-- The reset sequence (70_reset_and_hazards.md R282): FL becomes 0 but for RT, IP is read from the vector, RT is
cleared, the fault state is left. -/
def resetSequence (s : State) : State :=
  let begun := s.setFl (putFlag .rt true 0)
  let loaded := begun.setIp (loadWord .vector resetVector begun)
  (loaded.setFl (putFlag .rt false loaded.fl)).setFault none

end Sys2Proof.Machine
end

