-- ==== Sys2Proof/Machine/Operands.lean ====
section
/-! DEFINITION. The value and the location of an operand (spec 30_encoding.md R103 to R106), the address of the
next instruction (R99), and the shapes that the meanings share. -/

namespace Sys2Proof.Machine

/-- `npc`: the address after an instruction with these operands (30_encoding.md R99, 10_state.md R35, R36). -/
def nextIp (ops : List Operand) (s : State) : Word :=
  s.ip + BitVec.ofNat 16 (2 + (ops.map Operand.size).sum)

/-- The two low bits of an operand's mode. -/
def operandForm : Operand → Form
  | .lit form _ _ => form
  | .reg form _ _ => form

/-- Whether the relative bit has an effect: not on a plain operand (30_encoding.md R96). -/
def isRelative : Operand → Bool
  | .lit form rel _ => rel && form != .plain
  | .reg form rel _ => rel && form != .plain

/-- What a relative mode adds to, by REL_BASE; `npc` is the next instruction's address (30_encoding.md R103). -/
def relOrigin (npc : Word) (s : State) : Word :=
  match Config.relBase with
  | .instructionStart => s.ip
  | .nextInstruction => npc

/-- `raw`: the literal, or the register's content zero-extended (30_encoding.md R103). -/
def operandRaw (op : Operand) (s : State) : Word :=
  match op with
  | .lit _ _ v => v
  | .reg _ _ r => readReg r s

/-- `base` (30_encoding.md R103). -/
def operandBase (npc : Word) (op : Operand) (s : State) : Word :=
  if isRelative op then relOrigin npc s + operandRaw op s else operandRaw op s

/-- `val(i)` (30_encoding.md R104). -/
def operandValue (i : OperandIndex) (npc : Word) (op : Operand) (s : State) : Word :=
  match operandForm op with
  | .plain => operandBase npc op s
  | .direct => loadWord (.value i) (operandBase npc op s) s
  | .indirect => loadWord (.value i) (loadWord (.pointer i) (operandBase npc op s) s) s

/-- A place an instruction can write: a register or a word of memory (30_encoding.md R105). -/
inductive Location where
  | reg (r : Reg)
  | mem (a : Word)
deriving DecidableEq, Repr

/-- `loc(i)`; an immediate has none (30_encoding.md R105). -/
def operandLocation (i : OperandIndex) (npc : Word) (op : Operand) (s : State) : Option Location :=
  match op with
  | .lit .plain _ _ => none
  | .reg .plain _ r => some (.reg r)
  | .lit .direct _ _ | .reg .direct _ _ => some (.mem (operandBase npc op s))
  | .lit .indirect _ _ | .reg .indirect _ _ => some (.mem (loadWord (.pointer i) (operandBase npc op s) s))

/-- The width of a location in bits (30_encoding.md R105). -/
def locationWidth : Location → Nat
  | .reg r => regWidth r
  | .mem _ => 16

/-- The content of a location, zero-extended (30_encoding.md R105). -/
def readLocation (l : Location) (s : State) : Word :=
  match l with
  | .reg r => readReg r s
  | .mem a => loadWord .location a s

/-- A location written (30_encoding.md R105). -/
def writeLocation (l : Location) (v : Word) (s : State) : Except Halt State :=
  match l with
  | .reg r => writeReg r v s
  | .mem a => .ok (writeWord a v s)

/-! ## Shapes of meanings -/

/-- ACL and FL receive a computed pair, AR becomes free, IP moves on (40_arithmetic.md, 41_logic_shift.md). -/
def accumulate (named : List Flag) (npc : Word) (p : Word × Word) (s : State) : Result :=
  .next (retireAlu named p.1 (((s.setAcl p.1).setFl p.2).setIp npc))

/-- FL alone receives a computed value, AR becomes free, IP moves on (CMP, TEST). That the dropped result is what AR
would mirror is the model's choice (`arAfter`, log 4). -/
def compareOnly (named : List Flag) (npc : Word) (p : Word × Word) (s : State) : Result :=
  .next (retireAlu named p.1 ((s.setFl p.2).setIp npc))

/-- Read, modify and write of the location of `op` at its width (40_arithmetic.md R139, 41_logic_shift.md R156). IP
moves on first, so that a write of IP is a jump (10_state.md R34). That an 8-bit result is zero-extended in an AR that
mirrors it is the model's choice (`arAfter`, log 4). `op` is operand 1 of every instruction of this shape. -/
def modifyLocation (npc : Word) (op : Operand) (f : Nat → Word → Word) (s : State) : Result :=
  match operandLocation .first npc op s with
  | none => raise .illegalOperandMode s
  | some l =>
    let r := f (locationWidth l) (readLocation l s)
    conclude s ((writeLocation l r (s.setIp npc)).map (retireAlu [] r))

/-- `modifyLocation` for an operand of class R; any other mode is `IllegalOperandMode` (30_encoding.md R110). -/
def modifyRegister (npc : Word) (op : Operand) (f : Nat → Word → Word) (s : State) : Result :=
  if op.fits .R then modifyLocation npc op f s else raise .illegalOperandMode s

/-- The register named by `dst` receives `v` (42_data_movement.md R172, R173); other modes of `dst` are
`IllegalOperandMode` (30_encoding.md R110). -/
def moveToRegister (npc : Word) (dst : Operand) (v : Word) (s : State) : Result :=
  match dst with
  | .reg .plain _ r => conclude s (writeReg r v (s.setIp npc))
  | _ => raise .illegalOperandMode s

/-- A jump to operand 1 on a condition; the target is resolved either way (43_control_flow.md R185). -/
def jumpIf (cond : Bool) (op : Operand) (s : State) : Result :=
  let t := operandValue .first (nextIp [op] s) op s
  .next (s.setIp (if cond then t else nextIp [op] s))

/-- One flag written, nothing else (45_flags_system.md R220). -/
def writeFlag (f : Flag) (b : Bool) (s : State) : Result :=
  .next ((s.setFl (putFlag f b s.fl)).setIp (nextIp [] s))

end Sys2Proof.Machine
end

