-- ==== Sys2Proof/Machine/Arithmetic.lean ====
section
/-! DEFINITION. The meanings of spec 40_arithmetic.md. -/

namespace Sys2Proof.Machine

/-- ADC (40_arithmetic.md R133). -/
def execAdc (a : Operand) (s : State) : Result :=
  let n := nextIp [a] s
  accumulate statusFlags n (addFlags s.acl (operandValue .first n a s) (getFlag .cf s.fl) s.fl) s

/-- ADD (40_arithmetic.md R134). -/
def execAdd (a : Operand) (s : State) : Result :=
  let n := nextIp [a] s
  accumulate statusFlags n (addFlags s.acl (operandValue .first n a s) false s.fl) s

/-- SUB, ACL - operand 1 (40_arithmetic.md R135). -/
def execSub (a : Operand) (s : State) : Result :=
  let n := nextIp [a] s
  accumulate statusFlags n (subFlags s.acl (operandValue .first n a s) s.fl) s

/-- CMP, operand 2 - operand 1, the result dropped (40_arithmetic.md R136, 90_conflicts.md C3, C4). -/
def execCmp (a b : Operand) (s : State) : Result :=
  let n := nextIp [a, b] s
  compareOnly statusFlags n (subFlags (operandValue .second n b s) (operandValue .first n a s) s.fl) s

/-- INC (40_arithmetic.md R137). -/
def execInc (a : Operand) (s : State) : Result :=
  modifyRegister (nextIp [a] s) a incAt s

/-- DEC (40_arithmetic.md R138). -/
def execDec (a : Operand) (s : State) : Result :=
  modifyRegister (nextIp [a] s) a decAt s

/-- NEG (40_arithmetic.md R139). -/
def execNeg (a : Operand) (s : State) : Result :=
  modifyLocation (nextIp [a] s) a negAt s

/-- MUL (40_arithmetic.md R140). -/
def execMul (a : Operand) (s : State) : Result :=
  let n := nextIp [a] s
  accumulate [.of, .cf] n (mulFlags s.acl (operandValue .first n a s) s.fl) s

/-- IMUL (40_arithmetic.md R141). -/
def execImul (a : Operand) (s : State) : Result :=
  let n := nextIp [a] s
  accumulate [.of, .cf] n (imulFlags s.acl (operandValue .first n a s) s.fl) s

/-- DIV; a zero divisor is `DivideByZero` (40_arithmetic.md R142, 60_exceptions.md R248). -/
def execDiv (a : Operand) (s : State) : Result :=
  let n := nextIp [a] s
  let x := operandValue .first n a s
  if x = 0 then raise .divideByZero s
  else accumulate [] n (BitVec.ofNat 16 (s.acl.toNat / x.toNat), s.fl) s

/-- IDIV; a zero divisor is `DivideByZero` (40_arithmetic.md R143, 60_exceptions.md R248). -/
def execIdiv (a : Operand) (s : State) : Result :=
  let n := nextIp [a] s
  let x := operandValue .first n a s
  let q := idivQuotient s.acl.toInt x.toInt
  if x = 0 ∨ idivRaises q = true then raise .divideByZero s
  else accumulate [] n (idivStore q, s.fl) s

end Sys2Proof.Machine
end

