-- ==== Sys2Proof/Machine/Control.lean ====
section
/-! DEFINITION. The meanings of spec 43_control_flow.md. -/

namespace Sys2Proof.Machine

/-- JMP (43_control_flow.md R186). -/
def execJmp (a : Operand) (s : State) : Result :=
  jumpIf true a s

/-- JZ (43_control_flow.md R187). -/
def execJz (a : Operand) (s : State) : Result :=
  jumpIf (condZ s.fl) a s

/-- JG (43_control_flow.md R188). -/
def execJg (a : Operand) (s : State) : Result :=
  jumpIf (condG s.fl) a s

/-- JGE (43_control_flow.md R189). -/
def execJge (a : Operand) (s : State) : Result :=
  jumpIf (condGe s.fl) a s

/-- JL (43_control_flow.md R190). -/
def execJl (a : Operand) (s : State) : Result :=
  jumpIf (condL s.fl) a s

/-- JLE (43_control_flow.md R191). -/
def execJle (a : Operand) (s : State) : Result :=
  jumpIf (condLe s.fl) a s

/-- JC (43_control_flow.md R192). -/
def execJc (a : Operand) (s : State) : Result :=
  jumpIf (condC s.fl) a s

/-- JS (43_control_flow.md R193). -/
def execJs (a : Operand) (s : State) : Result :=
  jumpIf (condS s.fl) a s

/-- JNZ (43_control_flow.md R194). -/
def execJnz (a : Operand) (s : State) : Result :=
  jumpIf (condNz s.fl) a s

/-- JNC (43_control_flow.md R195). -/
def execJnc (a : Operand) (s : State) : Result :=
  jumpIf (condNc s.fl) a s

/-- JNS (43_control_flow.md R196). -/
def execJns (a : Operand) (s : State) : Result :=
  jumpIf (condNs s.fl) a s

/-- CALL: the target is resolved, then the next instruction's address is pushed (43_control_flow.md R197). -/
def execCall (a : Operand) (s : State) : Result :=
  let n := nextIp [a] s
  conclude s ((push n s).map fun t => t.setIp (operandValue .first n a s))

/-- RET (43_control_flow.md R198). -/
def execRet (s : State) : Result :=
  conclude s ((pop s).map fun p => p.2.setIp p.1)

/-- NOP (43_control_flow.md R199). -/
def execNop (s : State) : Result :=
  .next (s.setIp (nextIp [] s))

end Sys2Proof.Machine
end

