-- ==== Sys2Proof/Machine/Io.lean ====
section
/-! DEFINITION. The meanings of spec 44_io.md. IO_OPERAND_READING (R205, log 16) decides what the operand that names
the CPU's side is: the address of a word of memory, or the datum or the location itself. -/

namespace Sys2Proof.Machine

/-- Where IN and BIN put a unit: their operand 2 names it (44_io.md R205). Under the reading `value` an immediate is no place. -/
def unitTarget (npc : Word) (op : Operand) (s : State) : Option Location :=
  match Config.ioOperandReading with
  | .address => some (.mem (operandValue .second npc op s))
  | .value => operandLocation .second npc op s

/-- The `k`-th unit that OUT (operand 1) and BOT (operand 2) send, each a load of its own, memory addresses BLOCK_MEM_STRIDE apart (44_io.md R205, R209). -/
def unitDatum (i : OperandIndex) (npc : Word) (op : Operand) (k : Nat) (s : State) : Word :=
  match Config.ioOperandReading with
  | .address => loadWord (.unit k) (operandValue i npc op s + BitVec.ofNat 16 k * Config.blockMemStride) s
  | .value => operandValue i npc op s

/-- The place of the next unit of a block: BLOCK_MEM_STRIDE further on in memory, the same register (44_io.md R208). -/
def nextTarget : Location → Location
  | .mem a => .mem (a + Config.blockMemStride)
  | .reg r => .reg r

/-- `n` units read from the I/O addresses `io`, `io + 1`, … and put from `l` on (44_io.md R208, R210). -/
def receiveUnits : Nat → Word → Location → State → Except Halt State
  | 0, _, _, s => .ok s
  | n + 1, io, l, s =>
    (writeLocation l (ioRead io s).1 (ioRead io s).2).bind fun t => receiveUnits n (io + 1) (nextTarget l) t

/-- The units sent to the I/O addresses `io`, `io + 1`, … (44_io.md R209, R210). -/
def sendUnits : List Word → Word → State → State
  | [], _, s => s
  | w :: ws, io, s => sendUnits ws (io + 1) (ioWrite io w s)

/-- IN and BIN: `count` units from the I/O address of `a` to the place that `b` names. IP moves on first, so that a
write of IP, which only the reading `value` allows, is a jump (10_state.md R34). -/
def receive (count : Nat) (a b : Operand) (s : State) : Result :=
  let n := nextIp [a, b] s
  match unitTarget n b s with
  | none => raise .illegalOperandMode s
  | some l => conclude s (receiveUnits count (operandValue .first n a s) l (s.setIp n))

/-- IN: operand 1 is the I/O address, operand 2 the CPU's side (44_io.md R206). -/
def execIn (a b : Operand) (s : State) : Result :=
  receive 1 a b s

/-- OUT: operand 1 is the CPU's side, operand 2 the I/O address (44_io.md R207). -/
def execOut (a b : Operand) (s : State) : Result :=
  let n := nextIp [a, b] s
  .next ((ioWrite (operandValue .second n b s) (unitDatum .first n a 0 s) s).setIp n)

/-- BIN: AL units, I/O address first (44_io.md R208, 90_conflicts.md C6). -/
def execBin (a b : Operand) (s : State) : Result :=
  receive (loByte s.acl).toNat a b s

/-- BOT: AL units, I/O address first (44_io.md R209, 90_conflicts.md C6, C7). -/
def execBot (a b : Operand) (s : State) : Result :=
  let n := nextIp [a, b] s
  let units := (List.range (loByte s.acl).toNat).map fun k => unitDatum .second n b k s
  .next ((sendUnits units (operandValue .first n a s) s).setIp n)

end Sys2Proof.Machine
end

