-- ==== Sys2Proof/Machine/Logic.lean ====
section
/-! DEFINITION. The meanings of spec 41_logic_shift.md. -/

namespace Sys2Proof.Machine

/-- AND (41_logic_shift.md R151). -/
def execAnd (a : Operand) (s : State) : Result :=
  let n := nextIp [a] s
  let r := s.acl &&& operandValue .first n a s
  accumulate [.zf, .of, .cf] n (r, andFlags r s.fl) s

/-- OR, no flag named (41_logic_shift.md R152). -/
def execOr (a : Operand) (s : State) : Result :=
  let n := nextIp [a] s
  let r := s.acl ||| operandValue .first n a s
  accumulate [] n (r, s.fl) s

/-- XOR, no flag named (41_logic_shift.md R153). -/
def execXor (a : Operand) (s : State) : Result :=
  let n := nextIp [a] s
  let r := s.acl ^^^ operandValue .first n a s
  accumulate [] n (r, s.fl) s

/-- NOT, the bitwise complement (41_logic_shift.md R154, 90_conflicts.md C8). -/
def execNot (a : Operand) (s : State) : Result :=
  modifyLocation (nextIp [a] s) a notAt s

/-- TEST, AND with ACL and the result dropped (41_logic_shift.md R155). -/
def execTest (a : Operand) (s : State) : Result :=
  let n := nextIp [a] s
  let r := s.acl &&& operandValue .first n a s
  compareOnly [.zf, .of, .cf] n (r, andFlags r s.fl) s

/-- SL (41_logic_shift.md R156, R157). -/
def execSl (a b : Operand) (s : State) : Result :=
  let n := nextIp [a, b] s
  modifyLocation n a (fun w v => shiftLeftAt w v (operandValue .second n b s).toNat) s

/-- SR, logical (41_logic_shift.md R156, R158). -/
def execSr (a b : Operand) (s : State) : Result :=
  let n := nextIp [a, b] s
  modifyLocation n a (fun w v => shiftRightAt w v (operandValue .second n b s).toNat) s

/-- ROL (41_logic_shift.md R156, R159). -/
def execRol (a b : Operand) (s : State) : Result :=
  let n := nextIp [a, b] s
  modifyLocation n a (fun w v => rotateLeftAt w v (operandValue .second n b s).toNat) s

/-- ROR (41_logic_shift.md R156, R160). -/
def execRor (a b : Operand) (s : State) : Result :=
  let n := nextIp [a, b] s
  modifyLocation n a (fun w v => rotateRightAt w v (operandValue .second n b s).toNat) s

end Sys2Proof.Machine
end

