-- ==== Sys2Proof/Machine/Move.lean ====
section
/-! DEFINITION. The meanings of spec 42_data_movement.md. -/

namespace Sys2Proof.Machine

/-- LD, operand 1 is the destination (42_data_movement.md R172). -/
def execLd (a b : Operand) (s : State) : Result :=
  let n := nextIp [a, b] s
  moveToRegister n a (operandValue .second n b s) s

/-- MOV, operand 2 is the destination; the source is of class VI (42_data_movement.md R173). -/
def execMov (a b : Operand) (s : State) : Result :=
  let n := nextIp [a, b] s
  if a.fits .VI then moveToRegister n b (operandValue .first n a s) s else raise .illegalOperandMode s

/-- ST, a whole word; operand 2 is of class M (42_data_movement.md R174). -/
def execSt (a b : Operand) (s : State) : Result :=
  let n := nextIp [a, b] s
  match operandLocation .second n b s with
  | some (.mem addr) => .next ((writeWord addr (operandValue .first n a s) s).setIp n)
  | _ => raise .illegalOperandMode s

/-- PUSH, the operand read before SP moves (42_data_movement.md R175). -/
def execPush (a : Operand) (s : State) : Result :=
  let n := nextIp [a] s
  conclude s ((push (operandValue .first n a s) s).map fun t => t.setIp n)

/-- POP: the location is resolved with the old SP and written, then SP is increased (42_data_movement.md R176).
The refusal of FL and IID comes before that of an odd SP (60_exceptions.md R249). -/
def execPop (a : Operand) (s : State) : Result :=
  let n := nextIp [a] s
  match operandLocation .first n a s with
  | none => raise .illegalOperandMode s
  | some l =>
    conclude s ((writeLocation l (loadWord .stack s.sp s) (s.setIp n)).bind fun t =>
      (checkEvenSp s).map fun _ => t.setSp (t.sp + 2))

end Sys2Proof.Machine
end

