-- ==== Sys2Proof/Machine/System.lean ====
section
/-! DEFINITION. The meanings of spec 45_flags_system.md. -/

namespace Sys2Proof.Machine

/-- CLO (45_flags_system.md R221). -/
def execClo (s : State) : Result :=
  writeFlag .of false s

/-- CLC (45_flags_system.md R222). -/
def execClc (s : State) : Result :=
  writeFlag .cf false s

/-- CLZ (45_flags_system.md R223). -/
def execClz (s : State) : Result :=
  writeFlag .zf false s

/-- CLN (45_flags_system.md R224). -/
def execCln (s : State) : Result :=
  writeFlag .nf false s

/-- CLI (45_flags_system.md R225). -/
def execCli (s : State) : Result :=
  writeFlag .ie false s

/-- STO (45_flags_system.md R226). -/
def execSto (s : State) : Result :=
  writeFlag .of true s

/-- STC (45_flags_system.md R227). -/
def execStc (s : State) : Result :=
  writeFlag .cf true s

/-- STZ (45_flags_system.md R228). -/
def execStz (s : State) : Result :=
  writeFlag .zf true s

/-- STN (45_flags_system.md R229). -/
def execStn (s : State) : Result :=
  writeFlag .nf true s

/-- STI (45_flags_system.md R230). -/
def execSti (s : State) : Result :=
  writeFlag .ie true s

/-- INT: with IE = 0 nothing but IP changes; otherwise the interrupt of the 16-bit literal is entered
(45_flags_system.md R231). Only an immediate is an operand of INT (30_encoding.md R110). -/
def execInt (a : Operand) (s : State) : Result :=
  let n := nextIp [a] s
  if a.fits .I then
    if getFlag .ie s.fl then conclude s (enterInterrupt (operandValue .first n a s) n s) else .next (s.setIp n)
  else raise .illegalOperandMode s

/-- IRET (45_flags_system.md R232). -/
def execIret (s : State) : Result :=
  conclude s (returnFromInterrupt s)

end Sys2Proof.Machine
end

