-- ==== Sys2Proof/Machine/Dispatch.lean ====
section
/-! DEFINITION. The meaning of each instruction, one arm a constructor. -/

namespace Sys2Proof.Machine

def exec (i : Instr) (s : State) : Host.Outcome State Fault Refusal :=
  match i with
  | .adc a => Sys2Proof.Machine.execAdc a s
  | .add a => Sys2Proof.Machine.execAdd a s
  | .and a => Sys2Proof.Machine.execAnd a s
  | .bin a b => Sys2Proof.Machine.execBin a b s
  | .bot a b => Sys2Proof.Machine.execBot a b s
  | .call a => Sys2Proof.Machine.execCall a s
  | .cmp a b => Sys2Proof.Machine.execCmp a b s
  | .dec a => Sys2Proof.Machine.execDec a s
  | .div a => Sys2Proof.Machine.execDiv a s
  | .idiv a => Sys2Proof.Machine.execIdiv a s
  | .imul a => Sys2Proof.Machine.execImul a s
  | .inp a b => Sys2Proof.Machine.execIn a b s
  | .inc a => Sys2Proof.Machine.execInc a s
  | .int a => Sys2Proof.Machine.execInt a s
  | .iret => Sys2Proof.Machine.execIret s
  | .jmp a => Sys2Proof.Machine.execJmp a s
  | .jz a => Sys2Proof.Machine.execJz a s
  | .jg a => Sys2Proof.Machine.execJg a s
  | .jge a => Sys2Proof.Machine.execJge a s
  | .jl a => Sys2Proof.Machine.execJl a s
  | .jle a => Sys2Proof.Machine.execJle a s
  | .jc a => Sys2Proof.Machine.execJc a s
  | .js a => Sys2Proof.Machine.execJs a s
  | .jnz a => Sys2Proof.Machine.execJnz a s
  | .jnc a => Sys2Proof.Machine.execJnc a s
  | .jns a => Sys2Proof.Machine.execJns a s
  | .ld a b => Sys2Proof.Machine.execLd a b s
  | .mov a b => Sys2Proof.Machine.execMov a b s
  | .mul a => Sys2Proof.Machine.execMul a s
  | .neg a => Sys2Proof.Machine.execNeg a s
  | .nop => Sys2Proof.Machine.execNop s
  | .not a => Sys2Proof.Machine.execNot a s
  | .or a => Sys2Proof.Machine.execOr a s
  | .out a b => Sys2Proof.Machine.execOut a b s
  | .pop a => Sys2Proof.Machine.execPop a s
  | .push a => Sys2Proof.Machine.execPush a s
  | .ret => Sys2Proof.Machine.execRet s
  | .rol a b => Sys2Proof.Machine.execRol a b s
  | .ror a b => Sys2Proof.Machine.execRor a b s
  | .sl a b => Sys2Proof.Machine.execSl a b s
  | .sr a b => Sys2Proof.Machine.execSr a b s
  | .st a b => Sys2Proof.Machine.execSt a b s
  | .clo => Sys2Proof.Machine.execClo s
  | .clc => Sys2Proof.Machine.execClc s
  | .clz => Sys2Proof.Machine.execClz s
  | .cln => Sys2Proof.Machine.execCln s
  | .cli => Sys2Proof.Machine.execCli s
  | .sto => Sys2Proof.Machine.execSto s
  | .stc => Sys2Proof.Machine.execStc s
  | .stz => Sys2Proof.Machine.execStz s
  | .stn => Sys2Proof.Machine.execStn s
  | .sti => Sys2Proof.Machine.execSti s
  | .sub a => Sys2Proof.Machine.execSub a s
  | .test a => Sys2Proof.Machine.execTest a s
  | .xor a => Sys2Proof.Machine.execXor a s

end Sys2Proof.Machine
end

