-- ==== Sys2Proof/Machine/Boundary.lean ====
section
/-! DEFINITION. What happens at an instruction boundary (spec 70_reset_and_hazards.md R288, 60_exceptions.md
R259): the environment's input, fetching and decoding (30_encoding.md R111), and where a table word is put. -/

namespace Sys2Proof.Machine

/-- What the environment presents at this boundary; past the end of the list it presents nothing (log 6). -/
def boundaryInput (s : State) : Boundary := s.inputs.headD .quiet

/-- This boundary's input taken: the memory peer's bytes are in place, its answers to the accesses of this step are
known, those of the step before are gone, and no request is kept (R288, 60_exceptions.md R253, 20_memory.md R82). -/
def takeInput (s : State) : State :=
  ((placeBytes (boundaryInput s).memory s).setMemAnswers (boundaryInput s).answers).setInputs s.inputs.tail

/-- The six bytes at IP, the longest instruction, each address modulo 2^16 (30_encoding.md R99, 10_state.md R36). -/
def fetchBytes (s : State) : List Byte :=
  [0, 1, 2, 3, 4, 5].map fun k => loadByte .fetch (s.ip + BitVec.ofNat 16 k) s

/-- What a failed check of R111 does: an exception, or `refuse` for an unused mode field. -/
def rejectBytes (e : DecodeError) (s : State) : Result :=
  match e with
  | .illegalOpcode => raise .illegalOpcode s
  | .invalidAddressingMode => raise .invalidAddressingMode s
  | .illegalOperandMode => raise .illegalOperandMode s
  | .invalidRegister => raise .invalidRegister s
  | .unusedModeField => .refused .unusedModeField
  | .truncated => .fault .fetchTruncated

/-- The instruction at IP fetched, decoded and executed (R288, last case). -/
def runInstruction (s : State) : Result :=
  match decode (fetchBytes s) with
  | .ok i => exec i s
  | .error e => rejectBytes e s

/-- Below reset and the fault state: an accepted hardware interrupt, else the instruction (R259). -/
def runBoundary (irq : Option Byte) (s : State) : Result :=
  match irq with
  | some id => if getFlag .ie s.fl then acceptInterrupt id s else runInstruction s
  | none => runInstruction s

/-- One step (R288): reset, then the fault state, then an interrupt, then the instruction. -/
def stepBoundary (s : State) : Result :=
  let t := takeInput s
  if (boundaryInput s).reset then .next (resetSequence t)
  else
    match s.fault with
    | some _ => .next t
    | none => runBoundary (boundaryInput s).irq t

/-- A table word's bytes stored at IP, the fault mark taken off, and a quiet boundary put before any input that
waits, so that the next step fetches them (log 23). -/
def placeTableWord (s : State) (nbits w : Nat) : State :=
  ((storeBytes s.ip (tableBytes nbits w) s).setFault none).setInputs
    (if s.inputs = [] then [] else .quiet :: s.inputs)

end Sys2Proof.Machine
end

