-- ==== Sys2Proof/Machine/Step.lean ====
section
/-! DEFINITION. One step of the machine, and where the next instruction is fetched. -/

namespace Sys2Proof.Machine

/-- One step: one instruction, one interrupt entry or one reset (spec 70_reset_and_hazards.md R288). -/
def step (s : State) : Host.Outcome State Fault Refusal := stepBoundary s

/-- The state with a table word where the next step fetches it. -/
def State.withFetchWord (s : State) (nbits w : Nat) : State := placeTableWord s nbits w

end Sys2Proof.Machine
end

