-- ==== Sys2Proof/Safety.lean ====
section
/-! DEFINITION. The words the statements use: what a step leaves unchanged, when the machine runs undisturbed,
the invariant of every step, and the end of a run (spec 70_reset_and_hazards.md R289). -/

namespace Sys2Proof.Machine

/-! ## Frames -/

/-- The pieces of State, each to be named where it may change. -/
inductive Part where
  | acl | bcl | ccl | dcl | sp | ip | ar | fl | iid | mem | fault | ioLog | ioAnswers | memAnswers | inputs | draws
deriving DecidableEq, Repr

/-- One piece of state is the same in `t` as in `s`; memory is compared by reading every byte. -/
def Part.same (p : Part) (s t : State) : Prop :=
  match p with
  | .acl => t.acl = s.acl
  | .bcl => t.bcl = s.bcl
  | .ccl => t.ccl = s.ccl
  | .dcl => t.dcl = s.dcl
  | .sp => t.sp = s.sp
  | .ip => t.ip = s.ip
  | .ar => t.ar = s.ar
  | .fl => t.fl = s.fl
  | .iid => t.iid = s.iid
  | .mem => ∀ a : Word, readByte a t = readByte a s
  | .fault => t.fault = s.fault
  | .ioLog => t.ioLog = s.ioLog
  | .ioAnswers => t.ioAnswers = s.ioAnswers
  | .memAnswers => t.memAnswers = s.memAnswers
  | .inputs => t.inputs = s.inputs
  | .draws => t.draws = s.draws

/-- Every piece of state but those listed is unchanged. -/
def OnlyChanges (ps : List Part) (s t : State) : Prop := ∀ p : Part, p ∉ ps → p.same s t

/-- Every bit of FL but those of the listed flags is unchanged. -/
def FlagsSameExcept (fs : List Flag) (s t : State) : Prop :=
  ∀ i : Nat, (∀ f ∈ fs, i ≠ f.bit) → t.fl.getLsbD i = s.fl.getLsbD i

/-- Every byte of memory but the two of the word at `a` is unchanged. -/
def MemSameOutside (a : Word) (s t : State) : Prop :=
  ∀ x : Word, x ≠ a → x ≠ a + 1 → readByte x t = readByte x s

/-- The piece of state that holds a register (10_state.md R21, R30). -/
def regPart : Reg → Part
  | .al | .ah | .acl => .acl
  | .bl | .bh | .bcl => .bcl
  | .cl | .ch | .ccl => .ccl
  | .dl | .dh | .dcl => .dcl
  | .sp => .sp | .ip => .ip | .ar => .ar | .fl => .fl | .iid => .iid

/-- The other half of a byte register's word (10_state.md R21). -/
def otherHalf : Reg → Option Reg
  | .al => some .ah | .ah => some .al | .bl => some .bh | .bh => some .bl
  | .cl => some .ch | .ch => some .cl | .dl => some .dh | .dh => some .dl
  | _ => none

/-- The low `w` bits of a word (10_state.md R31). -/
def lowBits (w : Nat) (v : Word) : Word := BitVec.ofNat 16 (v.toNat % 2 ^ w)

/-- The outcome of writing `v` to a location in an instruction that goes on at `npc`: the location holds `v` at its
width, IP is `npc` unless the location is IP, the other half of a byte register and every byte of memory outside
the word keep their value, and nothing else changes but the pieces in `extra`, of which this says nothing. -/
def AfterWrite (extra : List Part) (l : Location) (v npc : Word) (s t : State) : Prop :=
  match l with
  | .reg r =>
    (regPart r ∉ extra → readReg r t = lowBits (regWidth r) v) ∧
      (r ≠ .ip → t.ip = npc) ∧
      (∀ h, otherHalf r = some h → readReg h t = readReg h s) ∧
      OnlyChanges (regPart r :: .ip :: extra) s t
  | .mem a =>
    readWord a t = v ∧ MemSameOutside a s t ∧ t.ip = npc ∧ OnlyChanges (.mem :: .ip :: extra) s t

/-- The instruction completes: `exec` answers a next state, of which `P` holds. -/
def CompletesWith (i : Instr) (s : State) (P : State → Prop) : Prop :=
  ∃ t : State, exec i s = .next t ∧ P t

/-- An instruction that writes `v` to a location and goes on at `npc`: FL and IID are refused (10_state.md R33),
every other location is written. -/
def WritesLocation (i : Instr) (extra : List Part) (l : Location) (v npc : Word) (s : State) : Prop :=
  (l = .reg .fl ∨ l = .reg .iid → exec i s = .refused .writeToFlOrIid) ∧
    (l ≠ .reg .fl → l ≠ .reg .iid → CompletesWith i s (AfterWrite extra l v npc s))

/-- An instruction that pushes `v` and goes on at `target`: the exception at SP = 0 (60_exceptions.md R243), the
refusal of an odd SP (42_data_movement.md R170), else one word stored at SP - 2. -/
def PushesAndGoesTo (i : Instr) (v target : Word) (s : State) : Prop :=
  (s.sp = 0 → exec i s = .next { s with fault := some .stackOverflow }) ∧
    (s.sp.getLsbD 0 = true → exec i s = .refused .oddStackPointer) ∧
    (s.sp ≠ 0 → s.sp.getLsbD 0 = false →
      CompletesWith i s fun t => t.sp = s.sp - 2 ∧ AfterWrite [.sp] (.mem (s.sp - 2)) v target s t)

/-- The mode fields that each operand class accepts (the table of 30_encoding.md R102). -/
def classModes : OperandClass → List (BitVec 4)
  | .V => [0b0000, 0b0100, 0b1000, 0b1100, 0b0001, 0b0010, 0b0101, 0b0110, 0b1001, 0b1010, 0b1101, 0b1110]
  | .R => [0b1000, 0b1100]
  | .VI => [0b0000, 0b0100, 0b1000, 0b1100]
  | .I => [0b0000, 0b0100]
  | .L => [0b1000, 0b1100, 0b0001, 0b0010, 0b0101, 0b0110, 0b1001, 0b1010, 0b1101, 0b1110]
  | .M => [0b0001, 0b0010, 0b0101, 0b0110, 0b1001, 0b1010, 0b1101, 0b1110]

/-! ## Runs -/

/-- The step at this boundary fetches: no reset, no fault state, no interrupt accepted (R288). -/
def Undisturbed (s : State) : Prop :=
  s.fault = none ∧ (boundaryInput s).reset = false ∧
    ((boundaryInput s).irq = none ∨ getFlag .ie s.fl = false)

/-- What every step keeps: memory in its canonical form, and RT and the reserved bits of FL 0 (10_state.md R29). -/
def StateOk (s : State) : Prop := Memory.wf s.mem = true ∧ s.fl &&& 0x07FF = 0

/-- A state is safe when no exception has been raised (60_exceptions.md R241). -/
def Safe (s : State) : Prop := s.fault = none

/-- A run has ended (HALT_CONVENTION, 70_reset_and_hazards.md R289): IP points at a JMP with an immediate operand equal
to its own address, and IE = 0 or no further interrupt is requested. -/
def Halted (s : State) : Prop :=
  match Config.haltConvention with
  | .jumpToSelf =>
    readWord s.ip s = 0x1000 ∧ readWord (s.ip + 2) s = s.ip ∧
      (getFlag .ie s.fl = false ∨ ∀ b ∈ s.inputs, b.irq = none)
  | .never => False

/-- A run has ended abnormally: in a fault state or with a refusal (R289). -/
def EndedAbnormally (s : State) : Prop := s.fault ≠ none ∨ ∃ r : Refusal, step s = .refused r

/-- No coming boundary asserts RESET or has the memory peer place or answer a byte. -/
def LeftAlone (s : State) : Prop := ∀ b ∈ s.inputs, b.reset = false ∧ b.memory = [] ∧ b.answers = []

/-- `n` steps, as long as they give a next state. -/
def stepMany : Nat → State → Result
  | 0, s => .next s
  | n + 1, s =>
    match step s with
    | .next t => stepMany n t
    | stopped => stopped

/-- The flags each instruction may write (the table of 10_state.md R38). -/
def flagsWrittenBy : Instr → List Flag
  | .adc _ | .add _ | .sub _ | .cmp _ _ => [.of, .cf, .zf, .nf]
  | .and _ | .test _ => [.of, .cf, .zf]
  | .mul _ | .imul _ => [.of, .cf]
  | .clo | .sto => [.of]
  | .clc | .stc => [.cf]
  | .clz | .stz => [.zf]
  | .cln | .stn => [.nf]
  | .cli | .sti | .int _ | .iret => [.ie]
  | .inc _ | .dec _ | .neg _ | .not _ | .or _ | .xor _ | .div _ | .idiv _ | .rol _ _ | .ror _ _ | .sl _ _
  | .sr _ _ | .ld _ _ | .mov _ _ | .st _ _ | .push _ | .pop _ | .inp _ _ | .out _ _ | .bin _ _ | .bot _ _
  | .call _ | .ret | .jmp _ | .jz _ | .jg _ | .jge _ | .jl _ | .jle _ | .jc _ | .js _ | .jnz _ | .jnc _
  | .jns _ | .nop => []

end Sys2Proof.Machine
end

