-- ==== Sys2Proof/Certificates/Slice0/Obligations.lean ====
section
/-! DEFINITION. The statements. A docstring names the rule of spec/ a statement follows; where it rests on a decision
of the spec (D<n>) or a choice of the model, it names the log entry. -/

open Sys2Proof Sys2Proof.Machine

/-! ## Encoding -/

/-- Encoding an instruction and decoding its bytes gives the instruction back, whatever bytes follow
(30_encoding.md sections 1 to 4). Byte order and layout of the literals are the spec's decisions D1, D4
(logs 1, 17). -/
def Obligations.DecodeOfEncodeIsTheInstruction : Prop :=
  ∀ (i : Instr) (rest : List Byte), i.wellFormed = true → decode (encode i ++ rest) = .ok i

/-- Bytes that decode to an instruction begin with that instruction's encoding, and it is well-formed: no bit of an
instruction is dropped (30_encoding.md sections 1 to 4; D1, D4, D5, logs 1, 17). -/
def Obligations.DecodedBytesBeginWithTheEncoding : Prop :=
  ∀ (bytes : List Byte) (i : Instr),
    decode bytes = .ok i → i.wellFormed = true ∧ ∃ rest, bytes = encode i ++ rest

/-- Five instructions written out bit by bit from R91, R93, R97, R98, R107 decode as they should: MOV #64, AL (R115),
CMP #5, #3, LD CCL, [[BCL]], JMP [IP+8] and RET (D1, D4, log 1). -/
def Obligations.WrittenOutWordsDecode : Prop :=
  decode [0x08, 0x1C, 0x40, 0x00, 0x00] = .ok (.mov (.lit .plain false 64) (.reg .plain false .al)) ∧
  decode [0x00, 0x07, 0x05, 0x00, 0x03, 0x00] = .ok (.cmp (.lit .plain false 5) (.lit .plain false 3)) ∧
  decode [0x8A, 0x1B, 0x08, 0x05] = .ok (.ld (.reg .plain false .ccl) (.reg .indirect false .bcl)) ∧
  decode [0x50, 0x10, 0x08, 0x00] = .ok (.jmp (.lit .direct true 8)) ∧
  decode [0x00, 0x25] = .ok .ret

/-- One operand by R111: bits 1 and 0 both set is InvalidAddressingMode (R95); a mode outside the class's list of R102
is IllegalOperandMode (R110); a register literal above 0x10 is InvalidRegister (R100); every other is the operand
with the mode's register, relative, indirect and direct bits and the literal of R97. The checks and their order are
the spec's decisions D6, D13, D14, D25 (logs 17, 25). -/
def Obligations.DecodeOperandChecksInOrder : Prop :=
  ∀ (c : OperandClass) (m : BitVec 4) (x y : Byte) (rest : List Byte),
    (m &&& 0b0011 = 0b0011 →
      decodeOperand c m (x :: y :: rest) = .error .invalidAddressingMode) ∧
    (m &&& 0b0011 ≠ 0b0011 → m ∉ classModes c →
      decodeOperand c m (x :: y :: rest) = .error .illegalOperandMode) ∧
    (m ∈ classModes c → m.getLsbD 3 = true → 0x10 < x.toNat →
      decodeOperand c m (x :: y :: rest) = .error .invalidRegister) ∧
    (m ∈ classModes c → m.getLsbD 3 = true → x.toNat ≤ 0x10 →
      ∃ form r, decodeOperand c m (x :: y :: rest) = .ok (.reg form (m.getLsbD 2) r, y :: rest) ∧
        r.number = x ∧ form.bits = m &&& 0b0011) ∧
    (m ∈ classModes c → m.getLsbD 3 = false →
      ∃ form, decodeOperand c m (x :: y :: rest) =
          .ok (.lit form (m.getLsbD 2) (wordOfBytes x y), rest) ∧
        form.bits = m &&& 0b0011)

/-- Once the boundary's input is taken, fetching an opcode that is none of the 55 raises IllegalOpcode with no other
effect, and fetching one of the 55 never raises it (60_exceptions.md R245, 30_encoding.md R108). The exception is the
spec's decision D13, the fault mark D12, the environment's answer to the fetch D34 (logs 7, 21). -/
def Obligations.UnassignedOpcodeRaisesIllegalOpcode : Prop :=
  ∀ s : State, Undisturbed s →
    let op := (hiByte (loadWord .fetch s.ip (takeInput s))).toNat
    let unassigned := op = 0x06 ∨ (0x30 ≤ op ∧ op ≤ 0x3A) ∨ (0x40 ≤ op ∧ op ≤ 0x4A) ∨ 0x4E ≤ op
    (unassigned → step s = .next { takeInput s with fault := some .illegalOpcode }) ∧
    (¬ unassigned → ∀ t, step s = .next t → t.fault ≠ some .illegalOpcode)

/-- A mode field with bits 1 and 0 both set, of operand 1, or of operand 2 where operand 1 decodes, raises
InvalidAddressingMode with no other effect (60_exceptions.md R244; order R111 by D25, fault mark by D12, the
environment's answer to the fetch D34, logs 7, 21, 25). -/
def Obligations.BadModeBitsRaiseInvalidAddressingMode : Prop :=
  ∀ s : State, Undisturbed s →
    let w := loadWord .fetch s.ip (takeInput s)
    let mode1 : BitVec 4 := w.extractLsb' 4 4
    let mode2 : BitVec 4 := w.extractLsb' 0 4
    let raised : Result := .next { takeInput s with fault := some .invalidAddressingMode }
    (∀ c mk, rowOf (hiByte w) = some (.one c mk) → mode1 &&& 0b0011 = 0b0011 → step s = raised) ∧
    (∀ c d mk, rowOf (hiByte w) = some (.two c d mk) → mode1 &&& 0b0011 = 0b0011 → step s = raised) ∧
    (∀ c d mk a rest, rowOf (hiByte w) = some (.two c d mk) →
      decodeOperand c mode1 ((fetchBytes (takeInput s)).drop 2) = .ok (a, rest) → mode2 &&& 0b0011 = 0b0011 →
      step s = raised)

/-- A non-zero mode field of an operand the instruction does not have is refused (30_encoding.md R101: the spec's
decision D5; the environment's answer to the fetch D34, logs 9, 21). -/
def Obligations.UnusedModeFieldIsRefused : Prop :=
  ∀ s : State, Undisturbed s →
    let w := loadWord .fetch s.ip (takeInput s)
    let mode1 : BitVec 4 := w.extractLsb' 4 4
    let mode2 : BitVec 4 := w.extractLsb' 0 4
    (∀ i, rowOf (hiByte w) = some (.zero i) → mode1 ≠ 0 ∨ mode2 ≠ 0 → step s = .refused .unusedModeField) ∧
    (∀ c mk a rest, rowOf (hiByte w) = some (.one c mk) →
      decodeOperand c mode1 ((fetchBytes (takeInput s)).drop 2) = .ok (a, rest) → mode2 ≠ 0 →
      step s = .refused .unusedModeField)

/-! ## The step -/

/-- When no reset, fault state or accepted interrupt stands before it and the bytes at IP, after this boundary's input is
taken, decode to `i`, the step is `exec i` in that state; this step adds nothing else. Taking the input drops it from
the list, puts the memory peer's bytes in place, the last one for an address winning, keeps its answers to the accesses of
this step, and changes nothing else (70_reset_and_hazards.md R288, 20_memory.md R82; D25, D26, D34, logs 6, 21). -/
def Obligations.StepRunsTheDecodedInstruction : Prop :=
  (∀ (s : State) (i : Instr), Undisturbed s → decode (fetchBytes (takeInput s)) = .ok i →
    step s = exec i (takeInput s)) ∧
  ∀ s : State, (takeInput s).inputs = s.inputs.tail ∧
    (takeInput s).memAnswers = (boundaryInput s).answers ∧
    OnlyChanges [.inputs, .mem, .memAnswers] s (takeInput s) ∧
    (∀ a : Word, (∀ p ∈ (boundaryInput s).memory, p.1 ≠ a) → readByte a (takeInput s) = readByte a s) ∧
    ∀ (before after : List (Word × Byte)) (a : Word) (b : Byte),
      (boundaryInput s).memory = before ++ (a, b) :: after → (∀ p ∈ after, p.1 ≠ a) →
      readByte a (takeInput s) = b

/-- Bytes that fail a check of 30_encoding.md R111 take the machine to the fault state with the check's cause, nothing
else changed, or are refused where an unused mode field is not 0000 (60_exceptions.md R241, R242; D12 to D14, logs 7,
9). -/
def Obligations.StepRejectsUndecodableBytes : Prop :=
  ∀ (s : State) (e : DecodeError), Undisturbed s → decode (fetchBytes (takeInput s)) = .error e →
    (e = .illegalOpcode → step s = .next { takeInput s with fault := some .illegalOpcode }) ∧
    (e = .invalidAddressingMode → step s = .next { takeInput s with fault := some .invalidAddressingMode }) ∧
    (e = .illegalOperandMode → step s = .next { takeInput s with fault := some .illegalOperandMode }) ∧
    (e = .invalidRegister → step s = .next { takeInput s with fault := some .invalidRegister }) ∧
    (e = .unusedModeField → step s = .refused .unusedModeField) ∧ e ≠ .truncated

/-- The fault state persists at every boundary without a reset, whatever interrupt is requested: only the input is
taken (60_exceptions.md R241, R259; D12, D25, D34, logs 7, 21). -/
def Obligations.FaultStatePersists : Prop :=
  ∀ (s : State) (c : Cause), s.fault = some c → (boundaryInput s).reset = false →
    step s = .next (takeInput s) ∧ (takeInput s).fault = some c

/-- A boundary with RESET asserted, in any state and with any request: FL is 0, IP the word at 0xFFFE, the fault state
is left, all else is kept as the boundary's input leaves it and no instruction executes (70_reset_and_hazards.md R282,
R284, R285; D12, D28, D34, logs 7, 20, 21). -/
def Obligations.ResetClearsFlagsAndLoadsVector : Prop :=
  ∀ s : State, (boundaryInput s).reset = true →
    ∃ t, step s = .next t ∧ t.fl = 0 ∧ t.ip = loadWord .vector 0xFFFE (takeInput s) ∧ t.fault = none ∧
      t.inputs = s.inputs.tail ∧ OnlyChanges [.fl, .ip, .fault] (takeInput s) t

/-- A hardware interrupt accepted at a boundary: IID is the id byte zero-extended, the boundary's IP is pushed, IP comes
from the vector at 0xFFFC as memory is after the push, IE is cleared, and nothing else changes once the boundary's
input is taken; with SP = 0 it raises StackOverflow in the state of the boundary, with an odd SP it is refused
(60_exceptions.md R253, R254, R267; D12, D24, D31, D34, logs 6, 7, 9, 21). -/
def Obligations.HardwareInterruptEntry : Prop :=
  ∀ (s : State) (id : Byte), s.fault = none → (boundaryInput s).reset = false →
    (boundaryInput s).irq = some id → getFlag .ie s.fl = true →
    (s.sp = 0 → step s = .next { takeInput s with fault := some .stackOverflow }) ∧
    (s.sp.getLsbD 0 = true → step s = .refused .oddStackPointer) ∧
    (s.sp ≠ 0 → s.sp.getLsbD 0 = false →
      ∃ t, step s = .next t ∧ t.iid = id.setWidth 16 ∧ t.sp = s.sp - 2 ∧
        AfterWrite [.iid, .sp, .fl] (.mem (s.sp - 2)) s.ip (loadWord .vector 0xFFFC t) (takeInput s) t ∧
        getFlag .ie t.fl = false ∧ FlagsSameExcept [.ie] s t)

/-- With IE = 0 a hardware request leaves no trace: the step is the one without it, whatever else the boundary's input
holds (60_exceptions.md R251, R253; D24, log 6). -/
def Obligations.MaskedRequestLeavesNoTrace : Prop :=
  ∀ (s : State) (b : Boundary) (later : List Boundary), getFlag .ie s.fl = false →
    step { s with inputs := b :: later } = step { s with inputs := { b with irq := none } :: later }

/-- Every step keeps memory in its canonical form (the model's choice, log 3) and RT and the reserved bits of FL at 0
(10_state.md R29, 45_flags_system.md R233). -/
def Obligations.EveryStepKeepsTheInvariant : Prop :=
  ∀ s t : State, StateOk s → step s = .next t → StateOk t

/-- The state after reset meets the invariant that every step keeps (10_state.md R40). -/
def Obligations.ResetStateMeetsTheInvariant : Prop := StateOk State.reset

/-- After reset FL is 0, IP is the word at the reset vector and the machine is not in a fault state (10_state.md R40).
The other registers' values are the model's choice and are not stated (log 2). -/
def Obligations.ResetStateValues : Prop :=
  State.reset.fl = 0 ∧ State.reset.ip = readWord 0xFFFE State.reset ∧ State.reset.fault = none

/-- When a run has ended at a JMP to its own address, with IE = 0 or no further interrupt request, every later step
leaves the whole state unchanged, but for the boundary input it takes, as long as no reset comes and the memory peer
places and answers nothing (70_reset_and_hazards.md R289, 43_control_flow.md R186; the end of a run is D29, log 24). -/
def Obligations.JumpToItselfChangesNothing : Prop :=
  ∀ (s : State) (n : Nat), Halted s → s.fault = none → LeftAlone s →
    stepMany n s =
      .next { s with inputs := s.inputs.drop n, memAnswers := if n = 0 then s.memAnswers else [] }

/-- IID changes only by an accepted hardware interrupt (to its id byte), a taken INT (to its literal) and IRET (to 0)
(10_state.md R37; 90_conflicts.md C14). -/
def Obligations.InterruptIdWritersAreInterrupts : Prop :=
  ∀ s t : State, step s = .next t → t.iid ≠ s.iid →
    s.fault = none ∧ (boundaryInput s).reset = false ∧
      ((∃ id, (boundaryInput s).irq = some id ∧ getFlag .ie s.fl = true ∧ t.iid = id.setWidth 16) ∨
        (∃ rel v, decode (fetchBytes (takeInput s)) = .ok (.int (.lit .plain rel v)) ∧ getFlag .ie s.fl = true ∧
          t.iid = v) ∨
        (decode (fetchBytes (takeInput s)) = .ok .iret ∧ t.iid = 0))

/-- Each instruction leaves every bit of FL that the table of 10_state.md R38 does not give it, RT and the reserved bits
among them, whatever state it answers (that an unnamed flag is unchanged is the spec's decision D17, log 14). -/
def Obligations.FlagWritersAreThoseListed : Prop :=
  ∀ (i : Instr) (s t : State), exec i s = .next t → FlagsSameExcept (flagsWrittenBy i) s t

/-- An instruction that raises an exception has no other effect: the state is the one before it with the fault mark
(60_exceptions.md R241, R258; D12, log 7). -/
def Obligations.ExceptionsArePrecise : Prop :=
  ∀ (i : Instr) (s t : State), s.fault = none → exec i s = .next t → t.fault ≠ none →
    t = { s with fault := t.fault }

/-- Executing a well-formed instruction raises no cause but DivideByZero, from DIV or IDIV of a zero operand, and
StackOverflow, from PUSH, CALL or INT with IE = 1, at SP = 0 (60_exceptions.md R242, R243, R248; D12, D20, log 7). -/
def Obligations.ExecutionCausesAreTwo : Prop :=
  ∀ (i : Instr) (s t : State) (c : Cause), i.wellFormed = true → s.fault = none → exec i s = .next t →
    t.fault = some c →
    (c = .divideByZero ∧
      ∃ a, (i = .div a ∨ i = .idiv a) ∧ operandValue .first (nextIp [a] s) a s = 0) ∨
    (c = .stackOverflow ∧ s.sp = 0 ∧
      ∃ a, i = .push a ∨ i = .call a ∨ (i = .int a ∧ getFlag .ie s.fl = true))

/-- No step ends in a host-level fault: six fetched bytes always suffice the decoder (30_encoding.md R99; the model's
choice, log 8). -/
def Obligations.StepNeverEndsInAHostFault : Prop := ∀ (s : State) (f : Fault), step s ≠ .fault f

/-! ## Memory, registers, operands -/

/-- A word written reads back, its low byte at its address and its high byte at the next one modulo 2^16, and no other
byte changes (20_memory.md R64, R65, R68; byte order by D1, log 1; alignment and wrap by D2 and D3, log 29). A load gives
those bytes, or what the environment answers to this access of this address, so that two loads of one instruction may
differ at an address it owns (R82; D26, D34, log 21). -/
def Obligations.StoredWordReadsBack : Prop :=
  (∀ (acc : Access) (a : Word) (s : State),
    loadWord acc a s = wordOfBytes (loadByte acc a s) (loadByte acc (a + 1) s) ∧
    ((∀ q ∈ s.memAnswers, q.access = acc → q.address ≠ a) → loadByte acc a s = readByte a s) ∧
    ∀ (before after : List MemAnswer) (b : Byte), s.memAnswers = before ++ ⟨acc, a, b⟩ :: after →
      (∀ q ∈ before, q.access = acc → q.address ≠ a) → loadByte acc a s = b) ∧
  ∀ (a v : Word) (s : State),
    readWord a (writeWord a v s) = v ∧ (readByte a (writeWord a v s)).toNat = v.toNat % 256 ∧
      (readByte (a + 1) (writeWord a v s)).toNat = v.toNat / 256 ∧ MemSameOutside a s (writeWord a v s)

/-- AH and AL, and so BH to DL, are views of one word: a half reads as that half of it, a write of a half changes that
half and leaves the other, and a write of the word changes both (10_state.md R21; that a half takes the low byte of the
16-bit value written and reads zero-extended is R31, the spec's decision D15, log 28). -/
def Obligations.RegisterHalvesShareOneWord : Prop :=
  ∀ (h l w : Reg),
    (h, l, w) ∈ [(Reg.ah, Reg.al, Reg.acl), (.bh, .bl, .bcl), (.ch, .cl, .ccl), (.dh, .dl, .dcl)] →
    ∀ (v : Word) (s : State),
      readReg w s = hiByte (readReg w s) ++ loByte (readReg w s) ∧
      (readReg h s).toNat = (readReg w s).toNat / 256 ∧ (readReg l s).toNat = (readReg w s).toNat % 256 ∧
      (∃ t, writeReg h v s = .ok t ∧ (readReg h t).toNat = v.toNat % 256 ∧ readReg l t = readReg l s) ∧
      (∃ t, writeReg l v s = .ok t ∧ (readReg l t).toNat = v.toNat % 256 ∧ readReg h t = readReg h s) ∧
      (∃ t, writeReg w v s = .ok t ∧ readReg w t = v)

/-- The value of an operand in each of the twelve modes: a direct mode loads one word, an indirect one a pointer and then
the word at it (30_encoding.md R94, R96, R103, R104; the base of the relative modes and the absolute second pointer are
D7, D8, log 12). Each is a load of its own, which the environment may answer (D26, D34, log 21). -/
def Obligations.OperandValueOfEachMode : Prop :=
  ∀ (s : State) (i : OperandIndex) (n v : Word) (r : Reg) (rel : Bool),
    let pointer (a : Word) : Word := loadWord (.pointer i) a s
    let value (a : Word) : Word := loadWord (.value i) a s
    operandValue i n (.lit .plain rel v) s = v ∧
    operandValue i n (.lit .direct false v) s = value v ∧
    operandValue i n (.lit .indirect false v) s = value (pointer v) ∧
    operandValue i n (.lit .direct true v) s = value (s.ip + v) ∧
    operandValue i n (.lit .indirect true v) s = value (pointer (s.ip + v)) ∧
    operandValue i n (.reg .plain rel r) s = readReg r s ∧
    operandValue i n (.reg .direct false r) s = value (readReg r s) ∧
    operandValue i n (.reg .indirect false r) s = value (pointer (readReg r s)) ∧
    operandValue i n (.reg .direct true r) s = value (s.ip + readReg r s) ∧
    operandValue i n (.reg .indirect true r) s = value (pointer (s.ip + readReg r s))

/-- The location of an operand: a register for a plain register operand, none for an immediate, the word at the base for a
direct mode and the word at the pointer at the base for an indirect one (30_encoding.md R105, base by R103; that a
relative mode adds to the instruction's own address and that the second pointer is absolute are the spec's decisions
D7 and D8, log 12). The pointer is a load that the environment may answer (D26, D34, log 21). -/
def Obligations.OperandLocationOfEachMode : Prop :=
  ∀ (s : State) (i : OperandIndex) (n v : Word) (r : Reg) (rel : Bool),
    let pointer (a : Word) : Word := loadWord (.pointer i) a s
    operandLocation i n (.lit .plain rel v) s = none ∧
    operandLocation i n (.reg .plain rel r) s = some (.reg r) ∧
    operandLocation i n (.lit .direct rel v) s = some (.mem (if rel then s.ip + v else v)) ∧
    operandLocation i n (.reg .direct rel r) s =
      some (.mem (if rel then s.ip + readReg r s else readReg r s)) ∧
    operandLocation i n (.lit .indirect rel v) s =
      some (.mem (pointer (if rel then s.ip + v else v))) ∧
    operandLocation i n (.reg .indirect rel r) s =
      some (.mem (pointer (if rel then s.ip + readReg r s else readReg r s)))

/-! ## Arithmetic (40_arithmetic.md). AR is a free value after each of these (D19, log 4): it may change, and no statement
says to what. -/

/-- ADC completes always: ACL is the sum with the carry flag modulo 2^16; CF, OF, NF, ZF as R130 gives them; the rest of
FL and of the state kept (R133; that a flag is cleared when its condition fails is D17, ZF by C2, logs 13, 14). -/
def Obligations.AdcAddsOperandAndCarry : Prop :=
  ∀ (a : Operand) (s : State), CompletesWith (.adc a) s fun t =>
    let v := operandValue .first (nextIp [a] s) a s
    let c := if getFlag .cf s.fl then 1 else 0
    t.acl.toNat = (s.acl.toNat + v.toNat + c) % 65536 ∧
    (getFlag .cf t.fl = true ↔ 65536 ≤ s.acl.toNat + v.toNat + c) ∧
    (getFlag .of t.fl = true ↔
      s.acl.toInt + v.toInt + c < -32768 ∨ 32767 < s.acl.toInt + v.toInt + c) ∧
    getFlag .nf t.fl = t.acl.getLsbD 15 ∧
    (getFlag .zf t.fl = true ↔ t.acl = 0 ∧ getFlag .cf t.fl = false ∧ getFlag .of t.fl = false) ∧
    t.ip = nextIp [a] s ∧ FlagsSameExcept [.of, .cf, .zf, .nf] s t ∧
    OnlyChanges [.acl, .fl, .ip, .ar, .draws] s t

/-- ADD completes always: ACL is the sum modulo 2^16, with the flags of R130 (R134; D17, C2, logs 13, 14). -/
def Obligations.AddAddsOperand : Prop :=
  ∀ (a : Operand) (s : State), CompletesWith (.add a) s fun t =>
    let v := operandValue .first (nextIp [a] s) a s
    t.acl = s.acl + v ∧
    (getFlag .cf t.fl = true ↔ 65536 ≤ s.acl.toNat + v.toNat) ∧
    (getFlag .of t.fl = true ↔ s.acl.toInt + v.toInt < -32768 ∨ 32767 < s.acl.toInt + v.toInt) ∧
    getFlag .nf t.fl = t.acl.getLsbD 15 ∧
    (getFlag .zf t.fl = true ↔ t.acl = 0 ∧ getFlag .cf t.fl = false ∧ getFlag .of t.fl = false) ∧
    t.ip = nextIp [a] s ∧ FlagsSameExcept [.of, .cf, .zf, .nf] s t ∧
    OnlyChanges [.acl, .fl, .ip, .ar, .draws] s t

/-- SUB completes always: ACL is ACL - operand 1, CF the borrow, OF, NF, ZF as R131 gives them, so that ZF says the two
were equal (R135; the borrow is D18, cleared flags D17, logs 13, 14, 26). -/
def Obligations.SubSubtractsOperand : Prop :=
  ∀ (a : Operand) (s : State), CompletesWith (.sub a) s fun t =>
    let v := operandValue .first (nextIp [a] s) a s
    t.acl = s.acl - v ∧
    (getFlag .cf t.fl = true ↔ s.acl.toNat < v.toNat) ∧
    (getFlag .of t.fl = true ↔ s.acl.toInt - v.toInt < -32768 ∨ 32767 < s.acl.toInt - v.toInt) ∧
    getFlag .nf t.fl = (s.acl - v).getLsbD 15 ∧
    (getFlag .zf t.fl = true ↔ s.acl = v) ∧
    t.ip = nextIp [a] s ∧ FlagsSameExcept [.of, .cf, .zf, .nf] s t ∧
    OnlyChanges [.acl, .fl, .ip, .ar, .draws] s t

/-- CMP completes always: the flags are those of operand 2 - operand 1, and no register but FL, AR and IP and no byte of
memory changes (R136, C3, C4; D17, D18, logs 14, 26). -/
def Obligations.CmpSetsFlagsOfTheDifference : Prop :=
  ∀ (a b : Operand) (s : State), CompletesWith (.cmp a b) s fun t =>
    let x := operandValue .first (nextIp [a, b] s) a s
    let y := operandValue .second (nextIp [a, b] s) b s
    (getFlag .cf t.fl = true ↔ y.toNat < x.toNat) ∧
    (getFlag .of t.fl = true ↔ y.toInt - x.toInt < -32768 ∨ 32767 < y.toInt - x.toInt) ∧
    getFlag .nf t.fl = (y - x).getLsbD 15 ∧
    (getFlag .zf t.fl = true ↔ x = y) ∧
    t.ip = nextIp [a, b] s ∧ FlagsSameExcept [.of, .cf, .zf, .nf] s t ∧
    OnlyChanges [.fl, .ip, .ar, .draws] s t

/-- INC and DEC of a register add and subtract 1 at its width, a byte register not touching its other half, with no flag
changed; IP as the register is a jump; FL and IID are refused (R137, R138, 10_state.md R33, R34; D10, D11, D15, D16, D17, logs 9, 14, 19, 28). -/
def Obligations.IncAndDecStepARegister : Prop :=
  ∀ (rel : Bool) (r : Reg) (s : State),
    WritesLocation (.inc (.reg .plain rel r)) [.ar, .draws] (.reg r) (readReg r s + 1) (s.ip + 3) s ∧
    WritesLocation (.dec (.reg .plain rel r)) [.ar, .draws] (.reg r) (readReg r s - 1) (s.ip + 3) s

/-- NEG and NOT of a location, register or memory, write its two's and its one's complement at its width, no flag changed;
IP as the location is a jump, FL and IID are refused (40_arithmetic.md R139, 41_logic_shift.md R154, 10_state.md R33,
R34; D10, D11, D15, D16, D17, C8, C9, logs 9, 14, 19, 28). -/
def Obligations.NegAndNotComplementALocation : Prop :=
  ∀ (a : Operand) (s : State) (l : Location), operandLocation .first (nextIp [a] s) a s = some l →
    WritesLocation (.neg a) [.ar, .draws] l (0 - readLocation l s) (nextIp [a] s) s ∧
    WritesLocation (.not a) [.ar, .draws] l (~~~ readLocation l s) (nextIp [a] s) s

/-- MUL completes always: ACL is the low half of the unsigned product; CF and OF are set if the product does not fit and
cleared if it does (R140); all other flags kept (R38, R140; a flag not named is unchanged by the spec's decision D17,
log 14). -/
def Obligations.MulMultipliesUnsigned : Prop :=
  ∀ (a : Operand) (s : State), CompletesWith (.mul a) s fun t =>
    let v := operandValue .first (nextIp [a] s) a s
    t.acl.toNat = s.acl.toNat * v.toNat % 65536 ∧
    (getFlag .cf t.fl = true ↔ 65536 ≤ s.acl.toNat * v.toNat) ∧
    (getFlag .of t.fl = true ↔ 65536 ≤ s.acl.toNat * v.toNat) ∧
    t.ip = nextIp [a] s ∧ FlagsSameExcept [.of, .cf] s t ∧
    OnlyChanges [.acl, .fl, .ip, .ar, .draws] s t

/-- IMUL completes always: ACL is the product modulo 2^16; CF and OF say that the stored result's high byte is not 0
(R141; the test of the stored byte is D32, log 27; that ZF and NF are kept is D17, log 14). -/
def Obligations.ImulTestsTheStoredHighByte : Prop :=
  ∀ (a : Operand) (s : State), CompletesWith (.imul a) s fun t =>
    let v := operandValue .first (nextIp [a] s) a s
    t.acl = s.acl * v ∧
    (getFlag .cf t.fl = true ↔ 256 ≤ t.acl.toNat) ∧
    (getFlag .of t.fl = true ↔ 256 ≤ t.acl.toNat) ∧
    t.ip = nextIp [a] s ∧ FlagsSameExcept [.of, .cf] s t ∧
    OnlyChanges [.acl, .fl, .ip, .ar, .draws] s t

/-- DIV by a value that is not 0 completes with the unsigned quotient in ACL and no flag changed; by 0 it raises
DivideByZero and changes nothing else (R142, R248; D12, D17, D20, logs 7, 14, 15). -/
def Obligations.DivDividesUnsigned : Prop :=
  ∀ (a : Operand) (s : State),
    let v := operandValue .first (nextIp [a] s) a s
    (v ≠ 0 → CompletesWith (.div a) s fun t =>
      t.acl.toNat = s.acl.toNat / v.toNat ∧ t.ip = nextIp [a] s ∧
      OnlyChanges [.acl, .ip, .ar, .draws] s t) ∧
    (v = 0 → exec (.div a) s = .next { s with fault := some .divideByZero })

/-- IDIV by a value that is not 0 completes with the signed quotient rounded toward zero, -32768 / -1 being stored as
0x8000, and no flag changed; by 0 it raises DivideByZero (R143, R248; rounding and overflow are D20, log 15; D12, D17, logs 7, 14). -/
def Obligations.IdivDividesTowardZero : Prop :=
  ∀ (a : Operand) (s : State),
    let v := operandValue .first (nextIp [a] s) a s
    (v ≠ 0 → CompletesWith (.idiv a) s fun t =>
      (¬ (s.acl = 0x8000 ∧ v = 0xFFFF) → t.acl.toInt = s.acl.toInt.tdiv v.toInt) ∧
      (s.acl = 0x8000 ∧ v = 0xFFFF → t.acl = 0x8000) ∧
      t.ip = nextIp [a] s ∧ OnlyChanges [.acl, .ip, .ar, .draws] s t) ∧
    (v = 0 → exec (.idiv a) s = .next { s with fault := some .divideByZero })

/-! ## Logic and shifts (41_logic_shift.md) -/

/-- AND stores ACL and operand 1 in ACL, TEST drops it; both complete always, set ZF if that result is 0 and clear it
otherwise, clear OF and CF, and keep all other flags (R150, R151, R155; that ZF is cleared when its condition fails and
that NF is kept are the spec's decision D17, log 14). -/
def Obligations.AndAndTestSetZeroFlag : Prop :=
  ∀ (a : Operand) (s : State),
    let r := s.acl &&& operandValue .first (nextIp [a] s) a s
    let flags (t : State) : Prop := (getFlag .zf t.fl = true ↔ r = 0) ∧ getFlag .of t.fl = false ∧
      getFlag .cf t.fl = false ∧ FlagsSameExcept [.zf, .of, .cf] s t
    (CompletesWith (.and a) s fun t => t.acl = r ∧ flags t ∧ t.ip = nextIp [a] s ∧
      OnlyChanges [.acl, .fl, .ip, .ar, .draws] s t) ∧
    (CompletesWith (.test a) s fun t => flags t ∧ t.ip = nextIp [a] s ∧
      OnlyChanges [.fl, .ip, .ar, .draws] s t)

/-- OR and XOR complete always, store the bitwise result in ACL and change no flag (R152, R153; D17, C10, log 14). -/
def Obligations.OrAndXorKeepFlags : Prop :=
  ∀ (a : Operand) (s : State),
    let v := operandValue .first (nextIp [a] s) a s
    (CompletesWith (.or a) s fun t =>
      (∀ i, t.acl.getLsbD i = (s.acl.getLsbD i || v.getLsbD i)) ∧ t.ip = nextIp [a] s ∧
      OnlyChanges [.acl, .ip, .ar, .draws] s t) ∧
    (CompletesWith (.xor a) s fun t =>
      (∀ i, t.acl.getLsbD i = (s.acl.getLsbD i != v.getLsbD i)) ∧ t.ip = nextIp [a] s ∧
      OnlyChanges [.acl, .ip, .ar, .draws] s t)

/-- SL and SR by the full count `n` at the width `w` of the location: bit `i` of the result is bit `i - n`, or `i + n`, of
the location where both are below `w`, and 0 elsewhere; no flag changed; IP as the location is a jump, FL and IID are
refused (R156 to R158, 10_state.md R33, R34; D10, D11, D15, D16, D17, D21, logs 9, 14, 19, 28). -/
def Obligations.ShiftsMoveEveryBit : Prop :=
  ∀ (a b : Operand) (s : State) (l : Location), operandLocation .first (nextIp [a, b] s) a s = some l →
    let npc := nextIp [a, b] s
    let n := (operandValue .second npc b s).toNat
    let w := locationWidth l
    let v := readLocation l s
    (∃ r : Word, (∀ i, r.getLsbD i = (decide (i < w ∧ n ≤ i) && v.getLsbD (i - n))) ∧
      WritesLocation (.sl a b) [.ar, .draws] l r npc s) ∧
    (∃ r : Word, (∀ i, r.getLsbD i = (decide (i + n < w) && v.getLsbD (i + n))) ∧
      WritesLocation (.sr a b) [.ar, .draws] l r npc s)

/-- ROL and ROR by the count modulo the width `w` of the location: bit `i` comes from the bit `n` places below it, or above
it, around the `w` bits; no flag changed; IP as the location is a jump, FL and IID are refused (R156, R159, R160,
10_state.md R33, R34; D10, D11, D15, D16, D17, D21, C20, logs 9, 14, 19, 28). -/
def Obligations.RotatesTurnEveryBit : Prop :=
  ∀ (a b : Operand) (s : State) (l : Location), operandLocation .first (nextIp [a, b] s) a s = some l →
    let npc := nextIp [a, b] s
    let n := (operandValue .second npc b s).toNat
    let w := locationWidth l
    let v := readLocation l s
    (∃ r : Word, (∀ i, r.getLsbD i = (decide (i < w) && v.getLsbD ((i + (w - n % w)) % w))) ∧
      WritesLocation (.rol a b) [.ar, .draws] l r npc s) ∧
    (∃ r : Word, (∀ i, r.getLsbD i = (decide (i < w) && v.getLsbD ((i + n) % w))) ∧
      WritesLocation (.ror a b) [.ar, .draws] l r npc s)

/-! ## Moves and the stack (42_data_movement.md) -/

/-- LD writes the value of operand 2 to the register named by operand 1, truncated for a byte register; IP as the register
is a jump, FL and IID are refused; no flag and no byte of memory changes (R172, 10_state.md R33, R34; D10, D11, D15,
logs 9, 19, 28). -/
def Obligations.LdLoadsARegister : Prop :=
  ∀ (rel : Bool) (r : Reg) (b : Operand) (s : State),
    let npc := nextIp [.reg .plain rel r, b] s
    WritesLocation (.ld (.reg .plain rel r) b) [] (.reg r) (operandValue .second npc b s) npc s

/-- MOV writes the immediate or register of operand 1 to the register named by operand 2, as LD does (R173,
10_state.md R33, R34; D10, D11, D15, logs 9, 19, 28). -/
def Obligations.MovMovesToARegister : Prop :=
  ∀ (a : Operand) (rel : Bool) (r : Reg) (s : State), a.fits .VI = true →
    WritesLocation (.mov a (.reg .plain rel r)) [] (.reg r) (operandRaw a s)
      (nextIp [a, .reg .plain rel r] s) s

/-- ST writes the whole 16-bit value of operand 1 to the word of memory that operand 2 names, and changes nothing else but
IP (R174; D15, log 28). -/
def Obligations.StStoresAWord : Prop :=
  ∀ (a b : Operand) (s : State) (addr : Word),
    operandLocation .second (nextIp [a, b] s) b s = some (.mem addr) →
    CompletesWith (.st a b) s
      (AfterWrite [] (.mem addr) (operandValue .first (nextIp [a, b] s) a s) (nextIp [a, b] s) s)

/-- PUSH stores the value its operand had before SP moved at SP - 2, with the exception at SP = 0 and the refusal of an odd
SP (R175, R170; D12, D22, D31, logs 7, 9, 24). -/
def Obligations.PushStoresBelowSp : Prop :=
  ∀ (a : Operand) (s : State),
    PushesAndGoesTo (.push a) (operandValue .first (nextIp [a] s) a s) (nextIp [a] s) s

/-- POP writes the word it loads at SP to the location named with the old SP and then adds 2 to SP, so that POP SP leaves the popped
value plus 2; IP as the location is a jump; FL and IID are refused first, then an odd SP (R176, R171, 10_state.md R33,
R34; D10, D11, D15, D22, D25, D31, logs 9, 19, 24, 25, 28). -/
def Obligations.PopWritesThenMovesSp : Prop :=
  ∀ (a : Operand) (s : State) (l : Location), operandLocation .first (nextIp [a] s) a s = some l →
    (l = .reg .fl ∨ l = .reg .iid → exec (.pop a) s = .refused .writeToFlOrIid) ∧
    (l ≠ .reg .fl → l ≠ .reg .iid → s.sp.getLsbD 0 = true →
      exec (.pop a) s = .refused .oddStackPointer) ∧
    (l ≠ .reg .fl → l ≠ .reg .iid → s.sp.getLsbD 0 = false → CompletesWith (.pop a) s fun t =>
      AfterWrite [.sp] l (loadWord .stack s.sp s) (nextIp [a] s) s t ∧
      t.sp = (if l = .reg .sp then loadWord .stack s.sp s else s.sp) + 2)

/-! ## Control flow (43_control_flow.md) -/

/-- JMP sets IP to the value of its operand and changes nothing else (R186). -/
def Obligations.JmpGoesToItsOperand : Prop :=
  ∀ (a : Operand) (s : State), CompletesWith (.jmp a) s fun t =>
    t.ip = operandValue .first (nextIp [a] s) a s ∧ OnlyChanges [.ip] s t

/-- Each of the ten conditional jumps sets IP to the value of its operand when its condition on ZF, NF, OF and CF holds and
to the next instruction when it does not, and changes nothing else (R187 to R196). -/
def Obligations.ConditionalJumpsTestTheirFlags : Prop :=
  ∀ (a : Operand) (s : State),
    let zf := getFlag .zf s.fl
    let nf := getFlag .nf s.fl
    let of := getFlag .of s.fl
    let cf := getFlag .cf s.fl
    let jumps (i : Instr) (cond : Prop) : Prop := CompletesWith i s fun t =>
      (cond → t.ip = operandValue .first (nextIp [a] s) a s) ∧ (¬ cond → t.ip = nextIp [a] s) ∧
      OnlyChanges [.ip] s t
    jumps (.jz a) (zf = true) ∧ jumps (.jg a) (zf = false ∧ nf = of) ∧ jumps (.jge a) (nf = of) ∧
    jumps (.jl a) (nf ≠ of) ∧ jumps (.jle a) (zf = true ∨ nf ≠ of) ∧ jumps (.jc a) (cf = true) ∧
    jumps (.js a) (nf = true) ∧ jumps (.jnz a) (zf = false) ∧ jumps (.jnc a) (cf = false) ∧
    jumps (.jns a) (nf = false)

/-- After CMP x, y, and after SUB x with y the old ACL, each conditional jump is taken exactly when y compares to x as the
table of R202 says: equal, signed greater and less, unsigned below, and the sign of y - x (the borrow is D18,
log 26). -/
def Obligations.JumpsAfterCompareReadTheOrder : Prop :=
  ∀ (i : Instr) (x y : Word) (s : State),
    (∃ a b, i = .cmp a b ∧ x = operandValue .first (nextIp [a, b] s) a s ∧
        y = operandValue .second (nextIp [a, b] s) b s) ∨
      (∃ a, i = .sub a ∧ x = operandValue .first (nextIp [a] s) a s ∧ y = s.acl) →
    ∃ t, exec i s = .next t ∧ ∀ c : Operand,
      let goes (j : Instr) (taken : Prop) : Prop := ∃ u, exec j t = .next u ∧
        (taken → u.ip = operandValue .first (nextIp [c] t) c t) ∧ (¬ taken → u.ip = nextIp [c] t)
      goes (.jz c) (y = x) ∧ goes (.jnz c) (y ≠ x) ∧
      goes (.jg c) (x.toInt < y.toInt) ∧ goes (.jge c) (x.toInt ≤ y.toInt) ∧
      goes (.jl c) (y.toInt < x.toInt) ∧ goes (.jle c) (y.toInt ≤ x.toInt) ∧
      goes (.jc c) (y.toNat < x.toNat) ∧ goes (.jnc c) (x.toNat ≤ y.toNat) ∧
      goes (.js c) ((y - x).getLsbD 15 = true) ∧ goes (.jns c) ((y - x).getLsbD 15 = false)

/-- CALL pushes the address of the next instruction and goes to its operand's value, resolved before the push, with the
exception at SP = 0 and the refusal of an odd SP (R197, R170; D9, D12, D31, logs 7, 9, 18). -/
def Obligations.CallPushesTheNextAddress : Prop :=
  ∀ (a : Operand) (s : State),
    PushesAndGoesTo (.call a) (nextIp [a] s) (operandValue .first (nextIp [a] s) a s) s

/-- RET with an even SP sets IP to the word it loads at SP and SP to SP + 2, and changes nothing else (R198). -/
def Obligations.RetPopsIp : Prop :=
  ∀ s : State, s.sp.getLsbD 0 = false → CompletesWith .ret s fun t =>
    t.ip = loadWord .stack s.sp s ∧ t.sp = s.sp + 2 ∧ OnlyChanges [.ip, .sp] s t

/-- RET and IRET with an odd SP are refused (42_data_movement.md R171: the spec's decision D31, log 9). -/
def Obligations.ReturnsWithOddSpAreRefused : Prop :=
  ∀ s : State, s.sp.getLsbD 0 = true →
    exec .ret s = .refused .oddStackPointer ∧ exec .iret s = .refused .oddStackPointer

/-- RET right after CALL comes back to the instruction after the CALL with SP as before it, whatever the environment
answers to the RET's accesses, unless it owns the stack word and answers the pop itself (R197, R198; D9, D26, D34,
logs 18, 21). -/
def Obligations.ReturnAfterCallComesBack : Prop :=
  ∀ (a : Operand) (s : State), s.sp ≠ 0 → s.sp.getLsbD 0 = false →
    ∃ t, exec (.call a) s = .next t ∧ ∀ answers : List MemAnswer,
      (∀ q ∈ answers, q.access = .stack → q.address ≠ s.sp - 2 ∧ q.address ≠ s.sp - 1) →
      CompletesWith .ret { t with memAnswers := answers } fun u =>
        u.ip = nextIp [a] s ∧ u.sp = s.sp ∧ MemSameOutside (s.sp - 2) s u ∧
        OnlyChanges [.ip, .mem, .memAnswers] s u

/-- NOP moves IP past its two bytes and changes nothing else (R199). -/
def Obligations.NopChangesIpAlone : Prop :=
  ∀ s : State, CompletesWith .nop s fun t => t.ip = s.ip + 2 ∧ OnlyChanges [.ip] s t

/-! ## Flags and interrupts (45_flags_system.md) -/

/-- Each clear and set instruction writes the bit of FL that 10_state.md R27 gives its flag, moves IP past its two bytes,
and changes no other bit of FL and nothing else (R221 to R230). -/
def Obligations.FlagInstructionsWriteOneBit : Prop :=
  ∀ (i : Instr) (f : Flag) (k : Nat) (b : Bool),
    (i, f, k, b) ∈ [(Instr.clo, Flag.of, 15, false), (.clc, .cf, 14, false), (.clz, .zf, 13, false),
      (.cln, .nf, 12, false), (.cli, .ie, 11, false), (.sto, .of, 15, true), (.stc, .cf, 14, true),
      (.stz, .zf, 13, true), (.stn, .nf, 12, true), (.sti, .ie, 11, true)] →
    ∀ s : State, CompletesWith i s fun t =>
      t.fl.getLsbD k = b ∧ getFlag f t.fl = b ∧ (∀ j : Nat, j ≠ k → t.fl.getLsbD j = s.fl.getLsbD j) ∧
        t.ip = s.ip + 2 ∧ OnlyChanges [.fl, .ip] s t

/-- INT of a literal: with IE = 0 only IP moves on; with IE = 1 it raises StackOverflow at SP = 0, is refused at an odd SP,
and otherwise sets IID to the literal, pushes the next address, takes IP from the vector at 0xFFFC as memory is after
the push and clears IE alone of the flags (R231, R254; D9, D12, D31, logs 7, 9, 18). -/
def Obligations.IntEntersTheInterrupt : Prop :=
  ∀ (rel : Bool) (v : Word) (s : State),
    let i : Instr := .int (.lit .plain rel v)
    (getFlag .ie s.fl = false → CompletesWith i s fun t => t.ip = s.ip + 4 ∧ OnlyChanges [.ip] s t) ∧
    (getFlag .ie s.fl = true → s.sp = 0 → exec i s = .next { s with fault := some .stackOverflow }) ∧
    (getFlag .ie s.fl = true → s.sp.getLsbD 0 = true → exec i s = .refused .oddStackPointer) ∧
    (getFlag .ie s.fl = true → s.sp ≠ 0 → s.sp.getLsbD 0 = false → CompletesWith i s fun t =>
      t.iid = v ∧ t.sp = s.sp - 2 ∧
      AfterWrite [.iid, .sp, .fl] (.mem (s.sp - 2)) (s.ip + 4) (loadWord .vector 0xFFFC t) s t ∧
      getFlag .ie t.fl = false ∧ FlagsSameExcept [.ie] s t)

/-- IRET with an even SP sets IE, clears IID, sets IP to the word it loads at SP and SP to SP + 2, and changes no other flag
and nothing else (R232). -/
def Obligations.IretReturnsAndSetsIe : Prop :=
  ∀ s : State, s.sp.getLsbD 0 = false → CompletesWith .iret s fun t =>
    getFlag .ie t.fl = true ∧ t.iid = 0 ∧ t.ip = loadWord .stack s.sp s ∧ t.sp = s.sp + 2 ∧
    FlagsSameExcept [.ie] s t ∧ OnlyChanges [.fl, .iid, .ip, .sp] s t

/-! ## I/O (44_io.md). Both operands are addresses (D23, log 16); what a read answers is the environment's (D34, log 5). -/

/-- IN reads one unit at the I/O address of operand 1, records it, and stores it at the memory address of operand 2; the
unit is the peer's next scripted answer where there is one, and any word otherwise (R206; D23, D34, logs 5, 16). -/
def Obligations.InStoresOneUnit : Prop :=
  ∀ (a b : Operand) (s : State), CompletesWith (.inp a b) s fun t =>
    let n := nextIp [a, b] s
    ∃ w : Word, t.ioLog = s.ioLog ++ [.read (operandValue .first n a s) w] ∧
      (∀ w' rest, s.ioAnswers = w' :: rest → w = w' ∧ t.ioAnswers = rest) ∧
      AfterWrite [.ioLog, .ioAnswers, .draws] (.mem (operandValue .second n b s)) w n s t

/-- OUT sends the word it loads at the memory address of operand 1 to the I/O address of operand 2 and changes nothing else
but IP (R207; D23, D26, D34, logs 5, 16, 21). -/
def Obligations.OutSendsOneUnit : Prop :=
  ∀ (a b : Operand) (s : State), CompletesWith (.out a b) s fun t =>
    let n := nextIp [a, b] s
    t.ioLog = s.ioLog ++ [.write (operandValue .second n b s) (loadWord (.unit 0) (operandValue .first n a s) s)] ∧
      t.ip = n ∧ OnlyChanges [.ioLog, .ip] s t

/-- BIN reads AL units at successive I/O addresses from operand 1 on, in order, stores each at the memory address of operand
2 so that the last survives (stride 0), takes scripted answers in order, and with AL = 0 changes IP alone (R208; D23,
D34, logs 5, 16). -/
def Obligations.BinReadsAlUnits : Prop :=
  ∀ (a b : Operand) (s : State), CompletesWith (.bin a b) s fun t =>
    let n := nextIp [a, b] s
    let io := operandValue .first n a s
    let d := operandValue .second n b s
    ∃ ws : List Word, ws.length = s.acl.toNat % 256 ∧
      t.ioLog = s.ioLog ++ ws.mapIdx (fun k w => .read (io + BitVec.ofNat 16 k) w) ∧
      (ws.length ≤ s.ioAnswers.length → s.ioAnswers = ws ++ t.ioAnswers) ∧
      (∀ w, ws.getLast? = some w → readWord d t = w) ∧ MemSameOutside d s t ∧ t.ip = n ∧
      (ws = [] → OnlyChanges [.ip] s t) ∧
      OnlyChanges [.mem, .ip, .ioLog, .ioAnswers, .draws] s t

/-- BOT sends AL words, each loaded anew at the memory address of operand 2 (stride 0), to successive I/O addresses from
operand 1 on, in order, and changes nothing else but IP; the loads agree unless the environment owns the address and
answers them (R209; D23, D26, D34, logs 5, 16, 21). -/
def Obligations.BotSendsAlUnits : Prop :=
  ∀ (a b : Operand) (s : State), CompletesWith (.bot a b) s fun t =>
    let n := nextIp [a, b] s
    t.ioLog = s.ioLog ++ (List.range (s.acl.toNat % 256)).map (fun k =>
        .write (operandValue .first n a s + BitVec.ofNat 16 k) (loadWord (.unit k) (operandValue .second n b s) s)) ∧
      t.ip = n ∧ OnlyChanges [.ioLog, .ip] s t
end

