-- ==== Sys2Proof/Laws/Flags.lean ====
section
/-! SUPPORT. The bits of a flags word after each write. -/

namespace Sys2Proof.Machine

/-- Writing a flag changes its own bit alone. -/
theorem getLsbD_putFlag (f : Flag) (b : Bool) (fl : Word) (i : Nat) :
    (putFlag f b fl).getLsbD i = if i = f.bit then b else fl.getLsbD i := by
  have hf : f.bit < 16 := by cases f <;> decide
  cases b <;> simp only [putFlag, if_true, Bool.false_eq_true, if_false]
  · rw [BitVec.getLsbD_and, BitVec.getLsbD_not, BitVec.getLsbD_twoPow]
    by_cases hi : i = f.bit
    · subst hi; simp [hf]
    · have : f.bit ≠ i := Ne.symm hi
      by_cases h16 : i < 16
      · simp [hi, this, h16]
      · simp [hi, BitVec.getLsbD_of_ge fl i (by omega)]
  · rw [BitVec.getLsbD_or, BitVec.getLsbD_twoPow]
    by_cases hi : i = f.bit
    · subst hi; simp [hf]
    · have : f.bit ≠ i := Ne.symm hi
      simp [hi, this]

@[simp] theorem getFlag_putFlag (f g : Flag) (b : Bool) (fl : Word) :
    getFlag f (putFlag g b fl) = if f = g then b else getFlag f fl := by
  rw [getFlag, getLsbD_putFlag]
  cases f <;> cases g <;> rfl

theorem signedOverflow_iff (x : Int) : signedOverflow x = true ↔ x < -32768 ∨ 32767 < x := by
  simp [signedOverflow]

@[simp] theorem zeroFlag_eq (r : Word) (cf of : Bool) : zeroFlag r cf of = (r == 0 && !cf && !of) := rfl

/-- At the default of IDIV_ROUND. -/
@[simp] theorem idivQuotient_eq (a d : Int) : idivQuotient a d = a.tdiv d := rfl

/-- At the default of IDIV_OVERFLOW no quotient raises. -/
@[simp] theorem idivRaises_eq (q : Int) : idivRaises q = false := rfl

end Sys2Proof.Machine
end

