-- ==== Sys2Proof/Laws/State.lean ====
section
/-! SUPPORT. What each one-field update of State leaves in each field. -/

namespace Sys2Proof.Machine

@[simp] theorem State.setAcl_acl (s : State) (v : Word) : (s.setAcl v).acl = v := rfl
@[simp] theorem State.setAcl_bcl (s : State) (v : Word) : (s.setAcl v).bcl = s.bcl := rfl
@[simp] theorem State.setAcl_ccl (s : State) (v : Word) : (s.setAcl v).ccl = s.ccl := rfl
@[simp] theorem State.setAcl_dcl (s : State) (v : Word) : (s.setAcl v).dcl = s.dcl := rfl
@[simp] theorem State.setAcl_sp (s : State) (v : Word) : (s.setAcl v).sp = s.sp := rfl
@[simp] theorem State.setAcl_ip (s : State) (v : Word) : (s.setAcl v).ip = s.ip := rfl
@[simp] theorem State.setAcl_ar (s : State) (v : Word) : (s.setAcl v).ar = s.ar := rfl
@[simp] theorem State.setAcl_fl (s : State) (v : Word) : (s.setAcl v).fl = s.fl := rfl
@[simp] theorem State.setAcl_iid (s : State) (v : Word) : (s.setAcl v).iid = s.iid := rfl
@[simp] theorem State.setAcl_mem (s : State) (v : Word) : (s.setAcl v).mem = s.mem := rfl
@[simp] theorem State.setAcl_fault (s : State) (v : Word) : (s.setAcl v).fault = s.fault := rfl
@[simp] theorem State.setAcl_ioLog (s : State) (v : Word) : (s.setAcl v).ioLog = s.ioLog := rfl
@[simp] theorem State.setAcl_ioAnswers (s : State) (v : Word) : (s.setAcl v).ioAnswers = s.ioAnswers := rfl
@[simp] theorem State.setAcl_memAnswers (s : State) (v : Word) : (s.setAcl v).memAnswers = s.memAnswers := rfl
@[simp] theorem State.setAcl_inputs (s : State) (v : Word) : (s.setAcl v).inputs = s.inputs := rfl
@[simp] theorem State.setAcl_draws (s : State) (v : Word) : (s.setAcl v).draws = s.draws := rfl

@[simp] theorem State.setBcl_acl (s : State) (v : Word) : (s.setBcl v).acl = s.acl := rfl
@[simp] theorem State.setBcl_bcl (s : State) (v : Word) : (s.setBcl v).bcl = v := rfl
@[simp] theorem State.setBcl_ccl (s : State) (v : Word) : (s.setBcl v).ccl = s.ccl := rfl
@[simp] theorem State.setBcl_dcl (s : State) (v : Word) : (s.setBcl v).dcl = s.dcl := rfl
@[simp] theorem State.setBcl_sp (s : State) (v : Word) : (s.setBcl v).sp = s.sp := rfl
@[simp] theorem State.setBcl_ip (s : State) (v : Word) : (s.setBcl v).ip = s.ip := rfl
@[simp] theorem State.setBcl_ar (s : State) (v : Word) : (s.setBcl v).ar = s.ar := rfl
@[simp] theorem State.setBcl_fl (s : State) (v : Word) : (s.setBcl v).fl = s.fl := rfl
@[simp] theorem State.setBcl_iid (s : State) (v : Word) : (s.setBcl v).iid = s.iid := rfl
@[simp] theorem State.setBcl_mem (s : State) (v : Word) : (s.setBcl v).mem = s.mem := rfl
@[simp] theorem State.setBcl_fault (s : State) (v : Word) : (s.setBcl v).fault = s.fault := rfl
@[simp] theorem State.setBcl_ioLog (s : State) (v : Word) : (s.setBcl v).ioLog = s.ioLog := rfl
@[simp] theorem State.setBcl_ioAnswers (s : State) (v : Word) : (s.setBcl v).ioAnswers = s.ioAnswers := rfl
@[simp] theorem State.setBcl_memAnswers (s : State) (v : Word) : (s.setBcl v).memAnswers = s.memAnswers := rfl
@[simp] theorem State.setBcl_inputs (s : State) (v : Word) : (s.setBcl v).inputs = s.inputs := rfl
@[simp] theorem State.setBcl_draws (s : State) (v : Word) : (s.setBcl v).draws = s.draws := rfl

@[simp] theorem State.setCcl_acl (s : State) (v : Word) : (s.setCcl v).acl = s.acl := rfl
@[simp] theorem State.setCcl_bcl (s : State) (v : Word) : (s.setCcl v).bcl = s.bcl := rfl
@[simp] theorem State.setCcl_ccl (s : State) (v : Word) : (s.setCcl v).ccl = v := rfl
@[simp] theorem State.setCcl_dcl (s : State) (v : Word) : (s.setCcl v).dcl = s.dcl := rfl
@[simp] theorem State.setCcl_sp (s : State) (v : Word) : (s.setCcl v).sp = s.sp := rfl
@[simp] theorem State.setCcl_ip (s : State) (v : Word) : (s.setCcl v).ip = s.ip := rfl
@[simp] theorem State.setCcl_ar (s : State) (v : Word) : (s.setCcl v).ar = s.ar := rfl
@[simp] theorem State.setCcl_fl (s : State) (v : Word) : (s.setCcl v).fl = s.fl := rfl
@[simp] theorem State.setCcl_iid (s : State) (v : Word) : (s.setCcl v).iid = s.iid := rfl
@[simp] theorem State.setCcl_mem (s : State) (v : Word) : (s.setCcl v).mem = s.mem := rfl
@[simp] theorem State.setCcl_fault (s : State) (v : Word) : (s.setCcl v).fault = s.fault := rfl
@[simp] theorem State.setCcl_ioLog (s : State) (v : Word) : (s.setCcl v).ioLog = s.ioLog := rfl
@[simp] theorem State.setCcl_ioAnswers (s : State) (v : Word) : (s.setCcl v).ioAnswers = s.ioAnswers := rfl
@[simp] theorem State.setCcl_memAnswers (s : State) (v : Word) : (s.setCcl v).memAnswers = s.memAnswers := rfl
@[simp] theorem State.setCcl_inputs (s : State) (v : Word) : (s.setCcl v).inputs = s.inputs := rfl
@[simp] theorem State.setCcl_draws (s : State) (v : Word) : (s.setCcl v).draws = s.draws := rfl

@[simp] theorem State.setDcl_acl (s : State) (v : Word) : (s.setDcl v).acl = s.acl := rfl
@[simp] theorem State.setDcl_bcl (s : State) (v : Word) : (s.setDcl v).bcl = s.bcl := rfl
@[simp] theorem State.setDcl_ccl (s : State) (v : Word) : (s.setDcl v).ccl = s.ccl := rfl
@[simp] theorem State.setDcl_dcl (s : State) (v : Word) : (s.setDcl v).dcl = v := rfl
@[simp] theorem State.setDcl_sp (s : State) (v : Word) : (s.setDcl v).sp = s.sp := rfl
@[simp] theorem State.setDcl_ip (s : State) (v : Word) : (s.setDcl v).ip = s.ip := rfl
@[simp] theorem State.setDcl_ar (s : State) (v : Word) : (s.setDcl v).ar = s.ar := rfl
@[simp] theorem State.setDcl_fl (s : State) (v : Word) : (s.setDcl v).fl = s.fl := rfl
@[simp] theorem State.setDcl_iid (s : State) (v : Word) : (s.setDcl v).iid = s.iid := rfl
@[simp] theorem State.setDcl_mem (s : State) (v : Word) : (s.setDcl v).mem = s.mem := rfl
@[simp] theorem State.setDcl_fault (s : State) (v : Word) : (s.setDcl v).fault = s.fault := rfl
@[simp] theorem State.setDcl_ioLog (s : State) (v : Word) : (s.setDcl v).ioLog = s.ioLog := rfl
@[simp] theorem State.setDcl_ioAnswers (s : State) (v : Word) : (s.setDcl v).ioAnswers = s.ioAnswers := rfl
@[simp] theorem State.setDcl_memAnswers (s : State) (v : Word) : (s.setDcl v).memAnswers = s.memAnswers := rfl
@[simp] theorem State.setDcl_inputs (s : State) (v : Word) : (s.setDcl v).inputs = s.inputs := rfl
@[simp] theorem State.setDcl_draws (s : State) (v : Word) : (s.setDcl v).draws = s.draws := rfl

@[simp] theorem State.setSp_acl (s : State) (v : Word) : (s.setSp v).acl = s.acl := rfl
@[simp] theorem State.setSp_bcl (s : State) (v : Word) : (s.setSp v).bcl = s.bcl := rfl
@[simp] theorem State.setSp_ccl (s : State) (v : Word) : (s.setSp v).ccl = s.ccl := rfl
@[simp] theorem State.setSp_dcl (s : State) (v : Word) : (s.setSp v).dcl = s.dcl := rfl
@[simp] theorem State.setSp_sp (s : State) (v : Word) : (s.setSp v).sp = v := rfl
@[simp] theorem State.setSp_ip (s : State) (v : Word) : (s.setSp v).ip = s.ip := rfl
@[simp] theorem State.setSp_ar (s : State) (v : Word) : (s.setSp v).ar = s.ar := rfl
@[simp] theorem State.setSp_fl (s : State) (v : Word) : (s.setSp v).fl = s.fl := rfl
@[simp] theorem State.setSp_iid (s : State) (v : Word) : (s.setSp v).iid = s.iid := rfl
@[simp] theorem State.setSp_mem (s : State) (v : Word) : (s.setSp v).mem = s.mem := rfl
@[simp] theorem State.setSp_fault (s : State) (v : Word) : (s.setSp v).fault = s.fault := rfl
@[simp] theorem State.setSp_ioLog (s : State) (v : Word) : (s.setSp v).ioLog = s.ioLog := rfl
@[simp] theorem State.setSp_ioAnswers (s : State) (v : Word) : (s.setSp v).ioAnswers = s.ioAnswers := rfl
@[simp] theorem State.setSp_memAnswers (s : State) (v : Word) : (s.setSp v).memAnswers = s.memAnswers := rfl
@[simp] theorem State.setSp_inputs (s : State) (v : Word) : (s.setSp v).inputs = s.inputs := rfl
@[simp] theorem State.setSp_draws (s : State) (v : Word) : (s.setSp v).draws = s.draws := rfl

@[simp] theorem State.setIp_acl (s : State) (v : Word) : (s.setIp v).acl = s.acl := rfl
@[simp] theorem State.setIp_bcl (s : State) (v : Word) : (s.setIp v).bcl = s.bcl := rfl
@[simp] theorem State.setIp_ccl (s : State) (v : Word) : (s.setIp v).ccl = s.ccl := rfl
@[simp] theorem State.setIp_dcl (s : State) (v : Word) : (s.setIp v).dcl = s.dcl := rfl
@[simp] theorem State.setIp_sp (s : State) (v : Word) : (s.setIp v).sp = s.sp := rfl
@[simp] theorem State.setIp_ip (s : State) (v : Word) : (s.setIp v).ip = v := rfl
@[simp] theorem State.setIp_ar (s : State) (v : Word) : (s.setIp v).ar = s.ar := rfl
@[simp] theorem State.setIp_fl (s : State) (v : Word) : (s.setIp v).fl = s.fl := rfl
@[simp] theorem State.setIp_iid (s : State) (v : Word) : (s.setIp v).iid = s.iid := rfl
@[simp] theorem State.setIp_mem (s : State) (v : Word) : (s.setIp v).mem = s.mem := rfl
@[simp] theorem State.setIp_fault (s : State) (v : Word) : (s.setIp v).fault = s.fault := rfl
@[simp] theorem State.setIp_ioLog (s : State) (v : Word) : (s.setIp v).ioLog = s.ioLog := rfl
@[simp] theorem State.setIp_ioAnswers (s : State) (v : Word) : (s.setIp v).ioAnswers = s.ioAnswers := rfl
@[simp] theorem State.setIp_memAnswers (s : State) (v : Word) : (s.setIp v).memAnswers = s.memAnswers := rfl
@[simp] theorem State.setIp_inputs (s : State) (v : Word) : (s.setIp v).inputs = s.inputs := rfl
@[simp] theorem State.setIp_draws (s : State) (v : Word) : (s.setIp v).draws = s.draws := rfl

@[simp] theorem State.setAr_acl (s : State) (v : Word) : (s.setAr v).acl = s.acl := rfl
@[simp] theorem State.setAr_bcl (s : State) (v : Word) : (s.setAr v).bcl = s.bcl := rfl
@[simp] theorem State.setAr_ccl (s : State) (v : Word) : (s.setAr v).ccl = s.ccl := rfl
@[simp] theorem State.setAr_dcl (s : State) (v : Word) : (s.setAr v).dcl = s.dcl := rfl
@[simp] theorem State.setAr_sp (s : State) (v : Word) : (s.setAr v).sp = s.sp := rfl
@[simp] theorem State.setAr_ip (s : State) (v : Word) : (s.setAr v).ip = s.ip := rfl
@[simp] theorem State.setAr_ar (s : State) (v : Word) : (s.setAr v).ar = v := rfl
@[simp] theorem State.setAr_fl (s : State) (v : Word) : (s.setAr v).fl = s.fl := rfl
@[simp] theorem State.setAr_iid (s : State) (v : Word) : (s.setAr v).iid = s.iid := rfl
@[simp] theorem State.setAr_mem (s : State) (v : Word) : (s.setAr v).mem = s.mem := rfl
@[simp] theorem State.setAr_fault (s : State) (v : Word) : (s.setAr v).fault = s.fault := rfl
@[simp] theorem State.setAr_ioLog (s : State) (v : Word) : (s.setAr v).ioLog = s.ioLog := rfl
@[simp] theorem State.setAr_ioAnswers (s : State) (v : Word) : (s.setAr v).ioAnswers = s.ioAnswers := rfl
@[simp] theorem State.setAr_memAnswers (s : State) (v : Word) : (s.setAr v).memAnswers = s.memAnswers := rfl
@[simp] theorem State.setAr_inputs (s : State) (v : Word) : (s.setAr v).inputs = s.inputs := rfl
@[simp] theorem State.setAr_draws (s : State) (v : Word) : (s.setAr v).draws = s.draws := rfl

@[simp] theorem State.setFl_acl (s : State) (v : Word) : (s.setFl v).acl = s.acl := rfl
@[simp] theorem State.setFl_bcl (s : State) (v : Word) : (s.setFl v).bcl = s.bcl := rfl
@[simp] theorem State.setFl_ccl (s : State) (v : Word) : (s.setFl v).ccl = s.ccl := rfl
@[simp] theorem State.setFl_dcl (s : State) (v : Word) : (s.setFl v).dcl = s.dcl := rfl
@[simp] theorem State.setFl_sp (s : State) (v : Word) : (s.setFl v).sp = s.sp := rfl
@[simp] theorem State.setFl_ip (s : State) (v : Word) : (s.setFl v).ip = s.ip := rfl
@[simp] theorem State.setFl_ar (s : State) (v : Word) : (s.setFl v).ar = s.ar := rfl
@[simp] theorem State.setFl_fl (s : State) (v : Word) : (s.setFl v).fl = v := rfl
@[simp] theorem State.setFl_iid (s : State) (v : Word) : (s.setFl v).iid = s.iid := rfl
@[simp] theorem State.setFl_mem (s : State) (v : Word) : (s.setFl v).mem = s.mem := rfl
@[simp] theorem State.setFl_fault (s : State) (v : Word) : (s.setFl v).fault = s.fault := rfl
@[simp] theorem State.setFl_ioLog (s : State) (v : Word) : (s.setFl v).ioLog = s.ioLog := rfl
@[simp] theorem State.setFl_ioAnswers (s : State) (v : Word) : (s.setFl v).ioAnswers = s.ioAnswers := rfl
@[simp] theorem State.setFl_memAnswers (s : State) (v : Word) : (s.setFl v).memAnswers = s.memAnswers := rfl
@[simp] theorem State.setFl_inputs (s : State) (v : Word) : (s.setFl v).inputs = s.inputs := rfl
@[simp] theorem State.setFl_draws (s : State) (v : Word) : (s.setFl v).draws = s.draws := rfl

@[simp] theorem State.setIid_acl (s : State) (v : Word) : (s.setIid v).acl = s.acl := rfl
@[simp] theorem State.setIid_bcl (s : State) (v : Word) : (s.setIid v).bcl = s.bcl := rfl
@[simp] theorem State.setIid_ccl (s : State) (v : Word) : (s.setIid v).ccl = s.ccl := rfl
@[simp] theorem State.setIid_dcl (s : State) (v : Word) : (s.setIid v).dcl = s.dcl := rfl
@[simp] theorem State.setIid_sp (s : State) (v : Word) : (s.setIid v).sp = s.sp := rfl
@[simp] theorem State.setIid_ip (s : State) (v : Word) : (s.setIid v).ip = s.ip := rfl
@[simp] theorem State.setIid_ar (s : State) (v : Word) : (s.setIid v).ar = s.ar := rfl
@[simp] theorem State.setIid_fl (s : State) (v : Word) : (s.setIid v).fl = s.fl := rfl
@[simp] theorem State.setIid_iid (s : State) (v : Word) : (s.setIid v).iid = v := rfl
@[simp] theorem State.setIid_mem (s : State) (v : Word) : (s.setIid v).mem = s.mem := rfl
@[simp] theorem State.setIid_fault (s : State) (v : Word) : (s.setIid v).fault = s.fault := rfl
@[simp] theorem State.setIid_ioLog (s : State) (v : Word) : (s.setIid v).ioLog = s.ioLog := rfl
@[simp] theorem State.setIid_ioAnswers (s : State) (v : Word) : (s.setIid v).ioAnswers = s.ioAnswers := rfl
@[simp] theorem State.setIid_memAnswers (s : State) (v : Word) : (s.setIid v).memAnswers = s.memAnswers := rfl
@[simp] theorem State.setIid_inputs (s : State) (v : Word) : (s.setIid v).inputs = s.inputs := rfl
@[simp] theorem State.setIid_draws (s : State) (v : Word) : (s.setIid v).draws = s.draws := rfl

@[simp] theorem State.setMem_acl (s : State) (v : List Host.Cell) : (s.setMem v).acl = s.acl := rfl
@[simp] theorem State.setMem_bcl (s : State) (v : List Host.Cell) : (s.setMem v).bcl = s.bcl := rfl
@[simp] theorem State.setMem_ccl (s : State) (v : List Host.Cell) : (s.setMem v).ccl = s.ccl := rfl
@[simp] theorem State.setMem_dcl (s : State) (v : List Host.Cell) : (s.setMem v).dcl = s.dcl := rfl
@[simp] theorem State.setMem_sp (s : State) (v : List Host.Cell) : (s.setMem v).sp = s.sp := rfl
@[simp] theorem State.setMem_ip (s : State) (v : List Host.Cell) : (s.setMem v).ip = s.ip := rfl
@[simp] theorem State.setMem_ar (s : State) (v : List Host.Cell) : (s.setMem v).ar = s.ar := rfl
@[simp] theorem State.setMem_fl (s : State) (v : List Host.Cell) : (s.setMem v).fl = s.fl := rfl
@[simp] theorem State.setMem_iid (s : State) (v : List Host.Cell) : (s.setMem v).iid = s.iid := rfl
@[simp] theorem State.setMem_mem (s : State) (v : List Host.Cell) : (s.setMem v).mem = v := rfl
@[simp] theorem State.setMem_fault (s : State) (v : List Host.Cell) : (s.setMem v).fault = s.fault := rfl
@[simp] theorem State.setMem_ioLog (s : State) (v : List Host.Cell) : (s.setMem v).ioLog = s.ioLog := rfl
@[simp] theorem State.setMem_ioAnswers (s : State) (v : List Host.Cell) : (s.setMem v).ioAnswers = s.ioAnswers := rfl
@[simp] theorem State.setMem_memAnswers (s : State) (v : List Host.Cell) : (s.setMem v).memAnswers = s.memAnswers := rfl
@[simp] theorem State.setMem_inputs (s : State) (v : List Host.Cell) : (s.setMem v).inputs = s.inputs := rfl
@[simp] theorem State.setMem_draws (s : State) (v : List Host.Cell) : (s.setMem v).draws = s.draws := rfl

@[simp] theorem State.setFault_acl (s : State) (v : Option Cause) : (s.setFault v).acl = s.acl := rfl
@[simp] theorem State.setFault_bcl (s : State) (v : Option Cause) : (s.setFault v).bcl = s.bcl := rfl
@[simp] theorem State.setFault_ccl (s : State) (v : Option Cause) : (s.setFault v).ccl = s.ccl := rfl
@[simp] theorem State.setFault_dcl (s : State) (v : Option Cause) : (s.setFault v).dcl = s.dcl := rfl
@[simp] theorem State.setFault_sp (s : State) (v : Option Cause) : (s.setFault v).sp = s.sp := rfl
@[simp] theorem State.setFault_ip (s : State) (v : Option Cause) : (s.setFault v).ip = s.ip := rfl
@[simp] theorem State.setFault_ar (s : State) (v : Option Cause) : (s.setFault v).ar = s.ar := rfl
@[simp] theorem State.setFault_fl (s : State) (v : Option Cause) : (s.setFault v).fl = s.fl := rfl
@[simp] theorem State.setFault_iid (s : State) (v : Option Cause) : (s.setFault v).iid = s.iid := rfl
@[simp] theorem State.setFault_mem (s : State) (v : Option Cause) : (s.setFault v).mem = s.mem := rfl
@[simp] theorem State.setFault_fault (s : State) (v : Option Cause) : (s.setFault v).fault = v := rfl
@[simp] theorem State.setFault_ioLog (s : State) (v : Option Cause) : (s.setFault v).ioLog = s.ioLog := rfl
@[simp] theorem State.setFault_ioAnswers (s : State) (v : Option Cause) : (s.setFault v).ioAnswers = s.ioAnswers := rfl
@[simp] theorem State.setFault_memAnswers (s : State) (v : Option Cause) : (s.setFault v).memAnswers = s.memAnswers := rfl
@[simp] theorem State.setFault_inputs (s : State) (v : Option Cause) : (s.setFault v).inputs = s.inputs := rfl
@[simp] theorem State.setFault_draws (s : State) (v : Option Cause) : (s.setFault v).draws = s.draws := rfl

@[simp] theorem State.setIoAnswers_acl (s : State) (v : List Word) : (s.setIoAnswers v).acl = s.acl := rfl
@[simp] theorem State.setIoAnswers_bcl (s : State) (v : List Word) : (s.setIoAnswers v).bcl = s.bcl := rfl
@[simp] theorem State.setIoAnswers_ccl (s : State) (v : List Word) : (s.setIoAnswers v).ccl = s.ccl := rfl
@[simp] theorem State.setIoAnswers_dcl (s : State) (v : List Word) : (s.setIoAnswers v).dcl = s.dcl := rfl
@[simp] theorem State.setIoAnswers_sp (s : State) (v : List Word) : (s.setIoAnswers v).sp = s.sp := rfl
@[simp] theorem State.setIoAnswers_ip (s : State) (v : List Word) : (s.setIoAnswers v).ip = s.ip := rfl
@[simp] theorem State.setIoAnswers_ar (s : State) (v : List Word) : (s.setIoAnswers v).ar = s.ar := rfl
@[simp] theorem State.setIoAnswers_fl (s : State) (v : List Word) : (s.setIoAnswers v).fl = s.fl := rfl
@[simp] theorem State.setIoAnswers_iid (s : State) (v : List Word) : (s.setIoAnswers v).iid = s.iid := rfl
@[simp] theorem State.setIoAnswers_mem (s : State) (v : List Word) : (s.setIoAnswers v).mem = s.mem := rfl
@[simp] theorem State.setIoAnswers_fault (s : State) (v : List Word) : (s.setIoAnswers v).fault = s.fault := rfl
@[simp] theorem State.setIoAnswers_ioLog (s : State) (v : List Word) : (s.setIoAnswers v).ioLog = s.ioLog := rfl
@[simp] theorem State.setIoAnswers_ioAnswers (s : State) (v : List Word) : (s.setIoAnswers v).ioAnswers = v := rfl
@[simp] theorem State.setIoAnswers_memAnswers (s : State) (v : List Word) : (s.setIoAnswers v).memAnswers = s.memAnswers := rfl
@[simp] theorem State.setIoAnswers_inputs (s : State) (v : List Word) : (s.setIoAnswers v).inputs = s.inputs := rfl
@[simp] theorem State.setIoAnswers_draws (s : State) (v : List Word) : (s.setIoAnswers v).draws = s.draws := rfl

@[simp] theorem State.setMemAnswers_acl (s : State) (v : List MemAnswer) : (s.setMemAnswers v).acl = s.acl := rfl
@[simp] theorem State.setMemAnswers_bcl (s : State) (v : List MemAnswer) : (s.setMemAnswers v).bcl = s.bcl := rfl
@[simp] theorem State.setMemAnswers_ccl (s : State) (v : List MemAnswer) : (s.setMemAnswers v).ccl = s.ccl := rfl
@[simp] theorem State.setMemAnswers_dcl (s : State) (v : List MemAnswer) : (s.setMemAnswers v).dcl = s.dcl := rfl
@[simp] theorem State.setMemAnswers_sp (s : State) (v : List MemAnswer) : (s.setMemAnswers v).sp = s.sp := rfl
@[simp] theorem State.setMemAnswers_ip (s : State) (v : List MemAnswer) : (s.setMemAnswers v).ip = s.ip := rfl
@[simp] theorem State.setMemAnswers_ar (s : State) (v : List MemAnswer) : (s.setMemAnswers v).ar = s.ar := rfl
@[simp] theorem State.setMemAnswers_fl (s : State) (v : List MemAnswer) : (s.setMemAnswers v).fl = s.fl := rfl
@[simp] theorem State.setMemAnswers_iid (s : State) (v : List MemAnswer) : (s.setMemAnswers v).iid = s.iid := rfl
@[simp] theorem State.setMemAnswers_mem (s : State) (v : List MemAnswer) : (s.setMemAnswers v).mem = s.mem := rfl
@[simp] theorem State.setMemAnswers_fault (s : State) (v : List MemAnswer) : (s.setMemAnswers v).fault = s.fault := rfl
@[simp] theorem State.setMemAnswers_ioLog (s : State) (v : List MemAnswer) : (s.setMemAnswers v).ioLog = s.ioLog := rfl
@[simp] theorem State.setMemAnswers_ioAnswers (s : State) (v : List MemAnswer) : (s.setMemAnswers v).ioAnswers = s.ioAnswers := rfl
@[simp] theorem State.setMemAnswers_memAnswers (s : State) (v : List MemAnswer) : (s.setMemAnswers v).memAnswers = v := rfl
@[simp] theorem State.setMemAnswers_inputs (s : State) (v : List MemAnswer) : (s.setMemAnswers v).inputs = s.inputs := rfl
@[simp] theorem State.setMemAnswers_draws (s : State) (v : List MemAnswer) : (s.setMemAnswers v).draws = s.draws := rfl

@[simp] theorem State.setInputs_acl (s : State) (v : List Boundary) : (s.setInputs v).acl = s.acl := rfl
@[simp] theorem State.setInputs_bcl (s : State) (v : List Boundary) : (s.setInputs v).bcl = s.bcl := rfl
@[simp] theorem State.setInputs_ccl (s : State) (v : List Boundary) : (s.setInputs v).ccl = s.ccl := rfl
@[simp] theorem State.setInputs_dcl (s : State) (v : List Boundary) : (s.setInputs v).dcl = s.dcl := rfl
@[simp] theorem State.setInputs_sp (s : State) (v : List Boundary) : (s.setInputs v).sp = s.sp := rfl
@[simp] theorem State.setInputs_ip (s : State) (v : List Boundary) : (s.setInputs v).ip = s.ip := rfl
@[simp] theorem State.setInputs_ar (s : State) (v : List Boundary) : (s.setInputs v).ar = s.ar := rfl
@[simp] theorem State.setInputs_fl (s : State) (v : List Boundary) : (s.setInputs v).fl = s.fl := rfl
@[simp] theorem State.setInputs_iid (s : State) (v : List Boundary) : (s.setInputs v).iid = s.iid := rfl
@[simp] theorem State.setInputs_mem (s : State) (v : List Boundary) : (s.setInputs v).mem = s.mem := rfl
@[simp] theorem State.setInputs_fault (s : State) (v : List Boundary) : (s.setInputs v).fault = s.fault := rfl
@[simp] theorem State.setInputs_ioLog (s : State) (v : List Boundary) : (s.setInputs v).ioLog = s.ioLog := rfl
@[simp] theorem State.setInputs_ioAnswers (s : State) (v : List Boundary) : (s.setInputs v).ioAnswers = s.ioAnswers := rfl
@[simp] theorem State.setInputs_memAnswers (s : State) (v : List Boundary) : (s.setInputs v).memAnswers = s.memAnswers := rfl
@[simp] theorem State.setInputs_inputs (s : State) (v : List Boundary) : (s.setInputs v).inputs = v := rfl
@[simp] theorem State.setInputs_draws (s : State) (v : List Boundary) : (s.setInputs v).draws = s.draws := rfl

@[simp] theorem State.logIo_acl (s : State) (e : IoEvent) : (s.logIo e).acl = s.acl := rfl
@[simp] theorem State.logIo_bcl (s : State) (e : IoEvent) : (s.logIo e).bcl = s.bcl := rfl
@[simp] theorem State.logIo_ccl (s : State) (e : IoEvent) : (s.logIo e).ccl = s.ccl := rfl
@[simp] theorem State.logIo_dcl (s : State) (e : IoEvent) : (s.logIo e).dcl = s.dcl := rfl
@[simp] theorem State.logIo_sp (s : State) (e : IoEvent) : (s.logIo e).sp = s.sp := rfl
@[simp] theorem State.logIo_ip (s : State) (e : IoEvent) : (s.logIo e).ip = s.ip := rfl
@[simp] theorem State.logIo_ar (s : State) (e : IoEvent) : (s.logIo e).ar = s.ar := rfl
@[simp] theorem State.logIo_fl (s : State) (e : IoEvent) : (s.logIo e).fl = s.fl := rfl
@[simp] theorem State.logIo_iid (s : State) (e : IoEvent) : (s.logIo e).iid = s.iid := rfl
@[simp] theorem State.logIo_mem (s : State) (e : IoEvent) : (s.logIo e).mem = s.mem := rfl
@[simp] theorem State.logIo_fault (s : State) (e : IoEvent) : (s.logIo e).fault = s.fault := rfl
@[simp] theorem State.logIo_ioLog (s : State) (e : IoEvent) : (s.logIo e).ioLog = s.ioLog ++ [e] := rfl
@[simp] theorem State.logIo_ioAnswers (s : State) (e : IoEvent) : (s.logIo e).ioAnswers = s.ioAnswers := rfl
@[simp] theorem State.logIo_memAnswers (s : State) (e : IoEvent) : (s.logIo e).memAnswers = s.memAnswers := rfl
@[simp] theorem State.logIo_inputs (s : State) (e : IoEvent) : (s.logIo e).inputs = s.inputs := rfl
@[simp] theorem State.logIo_draws (s : State) (e : IoEvent) : (s.logIo e).draws = s.draws := rfl

@[simp] theorem State.countDraw_acl (s : State) : s.countDraw.acl = s.acl := rfl
@[simp] theorem State.countDraw_bcl (s : State) : s.countDraw.bcl = s.bcl := rfl
@[simp] theorem State.countDraw_ccl (s : State) : s.countDraw.ccl = s.ccl := rfl
@[simp] theorem State.countDraw_dcl (s : State) : s.countDraw.dcl = s.dcl := rfl
@[simp] theorem State.countDraw_sp (s : State) : s.countDraw.sp = s.sp := rfl
@[simp] theorem State.countDraw_ip (s : State) : s.countDraw.ip = s.ip := rfl
@[simp] theorem State.countDraw_ar (s : State) : s.countDraw.ar = s.ar := rfl
@[simp] theorem State.countDraw_fl (s : State) : s.countDraw.fl = s.fl := rfl
@[simp] theorem State.countDraw_iid (s : State) : s.countDraw.iid = s.iid := rfl
@[simp] theorem State.countDraw_mem (s : State) : s.countDraw.mem = s.mem := rfl
@[simp] theorem State.countDraw_fault (s : State) : s.countDraw.fault = s.fault := rfl
@[simp] theorem State.countDraw_ioLog (s : State) : s.countDraw.ioLog = s.ioLog := rfl
@[simp] theorem State.countDraw_ioAnswers (s : State) : s.countDraw.ioAnswers = s.ioAnswers := rfl
@[simp] theorem State.countDraw_memAnswers (s : State) : s.countDraw.memAnswers = s.memAnswers := rfl
@[simp] theorem State.countDraw_inputs (s : State) : s.countDraw.inputs = s.inputs := rfl
@[simp] theorem State.countDraw_draws (s : State) : s.countDraw.draws = s.draws + 1 := rfl

end Sys2Proof.Machine
end

