-- ==== Sys2Proof/Laws/Memory.lean ====
section
/-! SUPPORT. What reading gives after writing, and that every memory operation keeps the canonical form. -/

namespace Sys2Proof.Machine

/-! ## The list -/

theorem Memory.read_erase (m : List Host.Cell) (a x : Nat) :
    Memory.read (Memory.erase m a) x = if x = a then unlistedByte else Memory.read m x := by
  induction m with
  | nil => simp [Memory.erase, Memory.read]
  | cons c m ih =>
    obtain ⟨k, v⟩ := c
    by_cases hk : k = a
    · have : Memory.erase ((k, v) :: m) a = Memory.erase m a := by simp [Memory.erase, hk]
      rw [this, ih]
      by_cases hx : x = a
      · simp [hx]
      · have : k ≠ x := by omega
        simp [hx, Memory.read, this]
    · have : Memory.erase ((k, v) :: m) a = (k, v) :: Memory.erase m a := by simp [Memory.erase, hk]
      rw [this]
      by_cases hx : k = x
      · have : x ≠ a := by omega
        simp [Memory.read, hx, this]
      · simp [Memory.read, hx, ih]

theorem Memory.read_insert {m : List Host.Cell} {a : Nat} (h : ∀ c ∈ m, c.1 ≠ a) (b : Byte) (x : Nat) :
    Memory.read (Memory.insert m a b) x = if x = a then b else Memory.read m x := by
  induction m with
  | nil => simp [Memory.insert, Memory.read, eq_comm]
  | cons c m ih =>
    obtain ⟨k, v⟩ := c
    have hk : k ≠ a := h (k, v) (by simp)
    have ih := ih fun c hc => h c (by simp [hc])
    by_cases hlt : a < k
    · simp [Memory.insert, Memory.read, hlt, eq_comm]
    · simp only [Memory.insert, hlt, if_false, Memory.read]
      by_cases hx : k = x
      · have : x ≠ a := by omega
        simp [hx, this]
      · simp [hx, ih]

theorem Memory.erase_ne (m : List Host.Cell) (a : Nat) : ∀ c ∈ Memory.erase m a, c.1 ≠ a := by
  intro c hc
  simpa [Memory.erase] using (List.mem_filter.mp hc).2

/-- A byte reads back as written, and every other byte as before. -/
theorem Memory.read_write (m : List Host.Cell) (a : Nat) (b : Byte) (x : Nat) :
    Memory.read (Memory.write m a b) x = if x = a then b else Memory.read m x := by
  unfold Memory.write
  split
  next hb => rw [Memory.read_erase, hb]
  next hb =>
    rw [Memory.read_insert (Memory.erase_ne m a), Memory.read_erase]
    split <;> rfl

theorem Memory.wf_iff (m : List Host.Cell) :
    Memory.wf m = true ↔
      m.Pairwise (fun x y => x.1 < y.1) ∧ ∀ c ∈ m, c.1 < 65536 ∧ c.2 ≠ unlistedByte := by
  simp [Memory.wf]

theorem Memory.wf_erase {m : List Host.Cell} (h : Memory.wf m = true) (a : Nat) :
    Memory.wf (Memory.erase m a) = true := by
  rw [Memory.wf_iff] at h ⊢
  exact ⟨h.1.filter _, fun c hc => h.2 c (List.mem_filter.mp hc).1⟩

theorem Memory.mem_insert {m : List Host.Cell} {a : Nat} {b : Byte} {c : Host.Cell}
    (h : c ∈ Memory.insert m a b) : c = (a, b) ∨ c ∈ m := by
  induction m with
  | nil => simpa [Memory.insert] using h
  | cons d m ih =>
    obtain ⟨k, v⟩ := d
    simp only [Memory.insert] at h
    split at h
    · simpa using h
    · rcases List.mem_cons.mp h with h | h
      · simp [h]
      · rcases ih h with h | h <;> simp [h]

theorem Memory.wf_insert {m : List Host.Cell} (h : Memory.wf m = true) {a : Nat} {b : Byte}
    (ha : a < 65536) (hb : b ≠ unlistedByte) (hne : ∀ c ∈ m, c.1 ≠ a) :
    Memory.wf (Memory.insert m a b) = true := by
  rw [Memory.wf_iff] at h ⊢
  refine ⟨?_, fun c hc => ?_⟩
  · replace h := h.1
    induction m with
    | nil => simp [Memory.insert]
    | cons d m ih =>
      obtain ⟨k, v⟩ := d
      obtain ⟨h1, h2⟩ := List.pairwise_cons.mp h
      simp only [Memory.insert]
      split
      next hlt =>
        refine List.pairwise_cons.mpr ⟨fun c hc => ?_, h⟩
        rcases List.mem_cons.mp hc with rfl | hc
        · exact hlt
        · exact lt_trans hlt (h1 c hc)
      next hlt =>
        have hk : k ≠ a := hne (k, v) (by simp)
        refine List.pairwise_cons.mpr ⟨fun c hc => ?_, ih (fun c hc => hne c (by simp [hc])) h2⟩
        rcases Memory.mem_insert hc with rfl | hc
        · show k < a
          omega
        · exact h1 c hc
  · rcases Memory.mem_insert hc with rfl | hc
    · exact ⟨ha, hb⟩
    · exact h.2 c hc

/-- Writing keeps the canonical form. -/
theorem Memory.wf_write {m : List Host.Cell} (h : Memory.wf m = true) {a : Nat} (ha : a < 65536) (b : Byte) :
    Memory.wf (Memory.write m a b) = true := by
  unfold Memory.write
  split
  · exact Memory.wf_erase h a
  next hb => exact Memory.wf_insert (Memory.wf_erase h a) ha hb (Memory.erase_ne m a)

/-! ## Bytes of the state -/

@[simp] theorem readByte_writeByte (a x : Word) (b : Byte) (s : State) :
    readByte x (writeByte a b s) = if x = a then b else readByte x s := by
  simp [readByte, writeByte, Memory.read_write, BitVec.toNat_inj]

theorem add_one_ne (a : Word) : a + 1 ≠ a := by bv_omega

theorem readByte_writeWord (a v x : Word) (s : State) :
    readByte x (writeWord a v s) =
      if x = a + 1 then secondByte v else if x = a then firstByte v else readByte x s := by
  simp [writeWord]

theorem getLsbD_hiByte (w : Word) (i : Nat) :
    (hiByte w).getLsbD i = (decide (i < 8) && w.getLsbD (i + 8)) := by
  simp [hiByte, Nat.add_comm]

theorem getLsbD_loByte (w : Word) (i : Nat) : (loByte w).getLsbD i = (decide (i < 8) && w.getLsbD i) := by
  simp [loByte]

theorem getLsbD_ofHiLo (h l : Byte) (i : Nat) :
    (ofHiLo h l).getLsbD i = if i < 8 then l.getLsbD i else h.getLsbD (i - 8) :=
  BitVec.getLsbD_append

@[simp] theorem ofHiLo_hi_lo (w : Word) : ofHiLo (hiByte w) (loByte w) = w := by
  apply BitVec.eq_of_getLsbD_eq
  intro i hi
  rw [getLsbD_ofHiLo, getLsbD_hiByte, getLsbD_loByte]
  split
  · simp [*]
  · have h1 : i - 8 < 8 := by omega
    have h2 : i - 8 + 8 = i := by omega
    simp [h1, h2]

@[simp] theorem hiByte_ofHiLo (h l : Byte) : hiByte (ofHiLo h l) = h := by
  apply BitVec.eq_of_getLsbD_eq
  intro i hi
  have h1 : ¬ i + 8 < 8 := by omega
  rw [getLsbD_hiByte, getLsbD_ofHiLo, if_neg h1]
  simp [hi]

@[simp] theorem loByte_ofHiLo (h l : Byte) : loByte (ofHiLo h l) = l := by
  apply BitVec.eq_of_getLsbD_eq
  intro i hi
  rw [getLsbD_loByte, getLsbD_ofHiLo, if_pos hi]
  simp [hi]

@[simp] theorem wordOfBytes_first_second (v : Word) : wordOfBytes (firstByte v) (secondByte v) = v :=
  ofHiLo_hi_lo v

/-- A word reads back as written (20_memory.md R64, R65). -/
theorem readWord_writeWord (a v : Word) (s : State) : readWord a (writeWord a v s) = v := by
  rw [readWord, readByte_writeWord, readByte_writeWord, if_neg (add_one_ne a).symm, if_pos rfl, if_pos rfl,
    wordOfBytes_first_second]

theorem readByte_writeWord_outside {a x : Word} (h1 : x ≠ a) (h2 : x ≠ a + 1) (v : Word) (s : State) :
    readByte x (writeWord a v s) = readByte x s := by
  rw [readByte_writeWord, if_neg h2, if_neg h1]

/-! ## A write touches memory alone -/

theorem writeByte_frame (a : Word) (b : Byte) (s : State) :
    writeByte a b s = s.setMem (writeByte a b s).mem := rfl

theorem writeWord_frame (a v : Word) (s : State) : writeWord a v s = s.setMem (writeWord a v s).mem := rfl

theorem storeBytes_frame (bs : List Byte) (a : Word) (s : State) :
    storeBytes a bs s = s.setMem (storeBytes a bs s).mem := by
  induction bs generalizing a s with
  | nil => rfl
  | cons b bs ih => rw [storeBytes, ih, writeByte_frame]; rfl

/-- Reading depends on memory alone. -/
theorem readByte_congr {s t : State} (h : t.mem = s.mem) (a : Word) : readByte a t = readByte a s := by
  simp [readByte, h]

theorem readWord_congr {s t : State} (h : t.mem = s.mem) (a : Word) : readWord a t = readWord a s := by
  simp [readWord, readByte, h]

/-! ## Loads -/

/-- Where the memory peer answers nothing, an access loads what memory holds. -/
theorem loadByte_of_noAnswer {acc : Access} {a : Word} {s : State}
    (h : ∀ q ∈ s.memAnswers, q.access = acc → q.address ≠ a) : loadByte acc a s = readByte a s := by
  have : s.memAnswers.find? (fun q => decide (q.access = acc ∧ q.address = a)) = none := by
    simpa using h
  rw [loadByte, peerAnswer, this]
  rfl

/-- The first answer to an access of an address is what the access loads. -/
theorem loadByte_of_answer {acc : Access} {a : Word} {s : State} {before after : List MemAnswer} {b : Byte}
    (hs : s.memAnswers = before ++ ⟨acc, a, b⟩ :: after)
    (h : ∀ q ∈ before, q.access = acc → q.address ≠ a) : loadByte acc a s = b := by
  have h0 : before.find? (fun q => decide (q.access = acc ∧ q.address = a)) = none := by
    simpa using h
  rw [loadByte, peerAnswer, hs, List.find?_append, h0]
  simp

theorem loadWord_of_noAnswer {acc : Access} {a : Word} {s : State}
    (h : ∀ q ∈ s.memAnswers, q.access = acc → q.address ≠ a ∧ q.address ≠ a + 1) :
    loadWord acc a s = readWord a s := by
  rw [loadWord, loadByte_of_noAnswer fun q hq ha => (h q hq ha).1,
    loadByte_of_noAnswer fun q hq ha => (h q hq ha).2, readWord]

/-- A load depends on memory and the peer's answers alone. -/
theorem loadByte_congr {s t : State} (hm : t.mem = s.mem) (ha : t.memAnswers = s.memAnswers) (acc : Access)
    (a : Word) : loadByte acc a t = loadByte acc a s := by
  simp [loadByte, peerAnswer, readByte, hm, ha]

theorem loadWord_congr {s t : State} (hm : t.mem = s.mem) (ha : t.memAnswers = s.memAnswers) (acc : Access)
    (a : Word) : loadWord acc a t = loadWord acc a s := by
  simp [loadWord, loadByte_congr hm ha]

/-! ## Writes keep the canonical form -/

theorem writeByte_wf {s : State} (h : Memory.wf s.mem = true) (a : Word) (b : Byte) :
    Memory.wf (writeByte a b s).mem = true := Memory.wf_write h a.isLt b

theorem writeWord_wf {s : State} (h : Memory.wf s.mem = true) (a v : Word) :
    Memory.wf (writeWord a v s).mem = true := writeByte_wf (writeByte_wf h a _) _ _

theorem storeBytes_wf {s : State} (h : Memory.wf s.mem = true) (a : Word) (bs : List Byte) :
    Memory.wf (storeBytes a bs s).mem = true := by
  induction bs generalizing a s with
  | nil => exact h
  | cons b bs ih => exact ih (writeByte_wf h a b) (a + 1)

/-! ## The memory peer's bytes -/

theorem placeBytes_frame (ps : List (Word × Byte)) (s : State) :
    placeBytes ps s = s.setMem (placeBytes ps s).mem := by
  induction ps generalizing s with
  | nil => rfl
  | cons p ps ih => rw [placeBytes, ih, writeByte_frame]; rfl

theorem placeBytes_wf {s : State} (h : Memory.wf s.mem = true) (ps : List (Word × Byte)) :
    Memory.wf (placeBytes ps s).mem = true := by
  induction ps generalizing s with
  | nil => exact h
  | cons p ps ih => exact ih (writeByte_wf h p.1 p.2)

theorem placeBytes_append (ps qs : List (Word × Byte)) (s : State) :
    placeBytes (ps ++ qs) s = placeBytes qs (placeBytes ps s) := by
  induction ps generalizing s with
  | nil => rfl
  | cons p ps ih => exact ih _

theorem readByte_placeBytes_outside {ps : List (Word × Byte)} {a : Word} (h : ∀ p ∈ ps, p.1 ≠ a) (s : State) :
    readByte a (placeBytes ps s) = readByte a s := by
  induction ps generalizing s with
  | nil => rfl
  | cons p ps ih =>
    rw [placeBytes, ih (fun q hq => h q (List.mem_cons_of_mem _ hq)), readByte_writeByte,
      if_neg (h p (List.mem_cons_self ..)).symm]

end Sys2Proof.Machine
end

