-- ==== Sys2Proof/Laws/Ops.lean ====
section
/-! SUPPORT. For each shared operation, once, everything it can do. -/

namespace Sys2Proof.Machine

/-! ## Stopping -/

@[simp] theorem conclude_ok (s t : State) : conclude s (.ok t) = .next t := rfl
@[simp] theorem conclude_raise (s : State) (c : Cause) :
    conclude s (.error (.raise c)) = .next (s.setFault (some c)) := rfl
@[simp] theorem conclude_refuse (s : State) (r : Refusal) : conclude s (.error (.refuse r)) = .refused r := rfl

/-- A next state is the computation's own, or an exception's. -/
theorem conclude_next {s t : State} {r : Except Halt State} (h : conclude s r = .next t) :
    r = .ok t ∨ ∃ c, r = .error (.raise c) ∧ t = s.setFault (some c) := by
  match r with
  | .ok u => exact .inl (by simpa using h)
  | .error (.raise c) => exact .inr ⟨c, rfl, by simpa [eq_comm] using h⟩
  | .error (.refuse r) => cases h

theorem conclude_ne_fault (s : State) (r : Except Halt State) (f : Fault) : conclude s r ≠ .fault f := by
  match r with
  | .ok u => simp
  | .error (.raise c) => simp
  | .error (.refuse r) => simp

/-! ## The stack -/

theorem checkEvenSp_even {s : State} (h : s.sp.getLsbD 0 = false) : checkEvenSp s = .ok () := by
  rw [checkEvenSp, h]; rfl

theorem checkEvenSp_odd {s : State} (h : s.sp.getLsbD 0 = true) :
    checkEvenSp s = .error (.refuse .oddStackPointer) := by
  rw [checkEvenSp, h]; rfl

theorem push_even {s : State} (h0 : s.sp ≠ 0) (he : s.sp.getLsbD 0 = false) (v : Word) :
    push v s = .ok (writeWord (s.sp - 2) v (s.setSp (s.sp - 2))) := by
  simp only [push, if_neg h0, checkEvenSp_even he]; rfl

theorem push_zero {s : State} (h0 : s.sp = 0) (v : Word) : push v s = .error (.raise .stackOverflow) := by
  simp [push, h0]

theorem push_odd {s : State} (h : s.sp.getLsbD 0 = true) (v : Word) :
    push v s = .error (.refuse .oddStackPointer) := by
  have h0 : s.sp ≠ 0 := by intro h0; rw [h0] at h; simp at h
  simp only [push, if_neg h0, checkEvenSp_odd h]; rfl

/-- All that `push` does: the exception at SP = 0, the refusal of an odd SP, or one word stored below SP. -/
theorem push_cases (v : Word) (s : State) :
    (s.sp = 0 ∧ push v s = .error (.raise .stackOverflow)) ∨
      (s.sp.getLsbD 0 = true ∧ push v s = .error (.refuse .oddStackPointer)) ∨
      (s.sp ≠ 0 ∧ s.sp.getLsbD 0 = false ∧
        push v s = .ok (writeWord (s.sp - 2) v (s.setSp (s.sp - 2)))) := by
  by_cases h0 : s.sp = 0
  · exact .inl ⟨h0, push_zero h0 v⟩
  · cases he : s.sp.getLsbD 0
    · exact .inr (.inr ⟨h0, rfl, push_even h0 he v⟩)
    · exact .inr (.inl ⟨rfl, push_odd he v⟩)

theorem pop_even {s : State} (h : s.sp.getLsbD 0 = false) :
    pop s = .ok (loadWord .stack s.sp s, s.setSp (s.sp + 2)) := by
  simp only [pop, checkEvenSp_even h]; rfl

theorem pop_odd {s : State} (h : s.sp.getLsbD 0 = true) : pop s = .error (.refuse .oddStackPointer) := by
  simp only [pop, checkEvenSp_odd h]; rfl

/-! ## The I/O space -/

/-- All that `IoRead` does: some word `w` is answered, the event recorded, and only the peer's answers and the
count of draws change besides. -/
theorem ioRead_frame (a : Word) (s : State) :
    ∃ w l d, ioRead a s = (w, { s with ioLog := s.ioLog ++ [.read a w], ioAnswers := l, draws := d }) := by
  unfold ioRead
  split
  · exact ⟨_, _, _, rfl⟩
  · exact ⟨_, _, _, rfl⟩

theorem ioRead_scripted {s : State} {w : Word} {l : List Word} (h : s.ioAnswers = w :: l) (a : Word) :
    ioRead a s = (w, (s.setIoAnswers l).logIo (.read a w)) := by
  simp [ioRead, h]

theorem ioRead_free {s : State} (h : s.ioAnswers = []) (a : Word) :
    ioRead a s =
      (Config.ioAnswer s.draws a, s.countDraw.logIo (.read a (Config.ioAnswer s.draws a))) := by
  simp [ioRead, h]

/-! ## The end of an arithmetic, logic or shift instruction -/

/-- At the spec's defaults: AR holds a fresh free value and nothing else changes. -/
theorem retireAlu_eq (named : List Flag) (r : Word) (s : State) :
    retireAlu named r s = (s.setAr (Config.freeWord s.draws)).countDraw := rfl

/-! ## Registers and locations -/

theorem toNat_ofHiLo_zero (b : Byte) : (ofHiLo 0 b).toNat = b.toNat := by
  show (0#8 ++ b : BitVec (8 + 8)).toNat = b.toNat
  rw [BitVec.toNat_append]
  simp

theorem readReg_lt (r : Reg) (s : State) : (readReg r s).toNat < 2 ^ regWidth r := by
  have h : ∀ b : Byte, (ofHiLo 0 b).toNat < 2 ^ 8 := by
    intro b
    rw [toNat_ofHiLo_zero]
    exact b.isLt
  cases r <;> simp only [readReg, regWidth] <;> first | exact h _ | exact BitVec.isLt _

/-- A register number other than FL's and IID's is written without a stop (10_state.md R31, R33). -/
theorem writeReg_ok {r : Reg} (h1 : r ≠ .fl) (h2 : r ≠ .iid) (v : Word) (s : State) :
    ∃ t, writeReg r v s = .ok t := by
  cases r <;> first | exact ⟨_, rfl⟩ | exact absurd rfl h1 | exact absurd rfl h2

theorem lowBits_16 (v : Word) : lowBits 16 v = v := by
  apply BitVec.eq_of_toNat_eq
  have := v.isLt
  simp only [lowBits, BitVec.toNat_ofNat]
  omega

theorem lowBits_8 (v : Word) : lowBits 8 v = ofHiLo 0 (loByte v) := by
  apply BitVec.eq_of_toNat_eq
  rw [toNat_ofHiLo_zero]
  simp [lowBits, loByte]
  omega

/-- What a register write leaves: the value at the register's width, the other half, and all other state. -/
theorem writeReg_after {r : Reg} {v : Word} {s t : State} (h : writeReg r v s = .ok t) :
    readReg r t = lowBits (regWidth r) v ∧ (∀ h, otherHalf r = some h → readReg h t = readReg h s) ∧
      OnlyChanges [regPart r] s t ∧ r ≠ .fl ∧ r ≠ .iid := by
  cases r <;> first
    | (simp [writeReg] at h; done)
    | (injection h with h
       subst h
       refine ⟨?_, ?_, ?_, by simp, by simp⟩
       · simp [readReg, regWidth, withLow, withHigh, lowBits_8, lowBits_16]
       · intro r' hr'
         first
         | (simp [otherHalf] at hr'; done)
         | (injection hr' with hr'
            subst hr'
            simp [readReg, withLow, withHigh])
       · intro p hp
         cases p <;> simp [regPart] at hp <;> simp [Part.same, readByte])

/-- What a location write leaves (30_encoding.md R105), `npc` being IP before the write. -/
theorem writeLocation_after {l : Location} {v : Word} {s t : State} (h : writeLocation l v s = .ok t) :
    AfterWrite [] l v s.ip s t := by
  match l with
  | .reg r =>
    obtain ⟨h1, h2, h3, -, -⟩ := writeReg_after h
    refine ⟨fun _ => h1, fun hr => ?_, h2, fun p hp => h3 p (by simp at hp ⊢; tauto)⟩
    have : regPart r ≠ .ip := by cases r <;> simp [regPart] at hr ⊢
    exact h3 .ip (by simpa using this.symm)
  | .mem a =>
    injection h with h
    subst h
    refine ⟨readWord_writeWord a v s, fun x h1 h2 => readByte_writeWord_outside h1 h2 v s, rfl, fun p hp => ?_⟩
    cases p <;> simp at hp <;> rfl

theorem writeLocation_ok {l : Location} (h1 : l ≠ .reg .fl) (h2 : l ≠ .reg .iid) (v : Word) (s : State) :
    ∃ t, writeLocation l v s = .ok t := by
  match l with
  | .reg r => exact writeReg_ok (by simpa using h1) (by simpa using h2) v s
  | .mem a => exact ⟨_, rfl⟩

/-! ## Interrupts and reset -/

theorem enterInterrupt_even {s : State} (h0 : s.sp ≠ 0) (he : s.sp.getLsbD 0 = false) (id ret : Word) :
    enterInterrupt id ret s =
      .ok (((writeWord (s.sp - 2) ret ((s.setIid id).setSp (s.sp - 2))).setIp
          (loadWord .vector interruptVector (writeWord (s.sp - 2) ret ((s.setIid id).setSp (s.sp - 2))))).setFl
        (putFlag .ie false s.fl)) := by
  have := push_even (s := s.setIid id) h0 he ret
  simp only [enterInterrupt, this, State.setIid_sp]; rfl

theorem enterInterrupt_zero {s : State} (h0 : s.sp = 0) (id ret : Word) :
    enterInterrupt id ret s = .error (.raise .stackOverflow) := by
  have := push_zero (s := s.setIid id) h0 ret
  simp only [enterInterrupt, this]; rfl

theorem enterInterrupt_odd {s : State} (h : s.sp.getLsbD 0 = true) (id ret : Word) :
    enterInterrupt id ret s = .error (.refuse .oddStackPointer) := by
  have := push_odd (s := s.setIid id) h ret
  simp only [enterInterrupt, this]; rfl

theorem returnFromInterrupt_even {s : State} (h : s.sp.getLsbD 0 = false) :
    returnFromInterrupt s =
      .ok ((((s.setSp (s.sp + 2)).setIp (loadWord .stack s.sp s)).setFl (putFlag .ie true s.fl)).setIid 0) := by
  simp only [returnFromInterrupt, pop_even h]; rfl

theorem returnFromInterrupt_odd {s : State} (h : s.sp.getLsbD 0 = true) :
    returnFromInterrupt s = .error (.refuse .oddStackPointer) := by
  simp only [returnFromInterrupt, pop_odd h]; rfl

/-- The reset sequence as one step (70_reset_and_hazards.md R282). -/
theorem resetSequence_eq (s : State) :
    resetSequence s = ((s.setFl 0).setIp (loadWord .vector resetVector s)).setFault none := by
  have h : putFlag .rt false (putFlag .rt true 0) = 0 := by decide
  have hr : loadWord .vector resetVector (s.setFl (putFlag .rt true 0)) = loadWord .vector resetVector s :=
    loadWord_congr rfl rfl _ _
  simp only [resetSequence, State.setIp_fl, State.setFl_fl, h, hr]
  rfl

end Sys2Proof.Machine
end

