-- ==== Sys2Proof/Laws/Boundary.lean ====
section
/-! SUPPORT. What taking a boundary's input leaves, and once what a step can do. -/

namespace Sys2Proof.Machine

/-- Taking the input changes the memory, the memory peer's answers and the list of inputs alone. -/
theorem takeInput_frame (s : State) :
    takeInput s =
      ((s.setMem (takeInput s).mem).setMemAnswers (boundaryInput s).answers).setInputs s.inputs.tail := by
  rw [takeInput, placeBytes_frame]
  rfl

theorem takeInput_quiet {s : State} (h : (boundaryInput s).memory = []) :
    takeInput s = (s.setMemAnswers (boundaryInput s).answers).setInputs s.inputs.tail := by
  rw [takeInput, h]
  rfl

@[simp] theorem takeInput_acl (s : State) : (takeInput s).acl = s.acl := by rw [takeInput_frame]; rfl
@[simp] theorem takeInput_bcl (s : State) : (takeInput s).bcl = s.bcl := by rw [takeInput_frame]; rfl
@[simp] theorem takeInput_ccl (s : State) : (takeInput s).ccl = s.ccl := by rw [takeInput_frame]; rfl
@[simp] theorem takeInput_dcl (s : State) : (takeInput s).dcl = s.dcl := by rw [takeInput_frame]; rfl
@[simp] theorem takeInput_sp (s : State) : (takeInput s).sp = s.sp := by rw [takeInput_frame]; rfl
@[simp] theorem takeInput_ip (s : State) : (takeInput s).ip = s.ip := by rw [takeInput_frame]; rfl
@[simp] theorem takeInput_ar (s : State) : (takeInput s).ar = s.ar := by rw [takeInput_frame]; rfl
@[simp] theorem takeInput_fl (s : State) : (takeInput s).fl = s.fl := by rw [takeInput_frame]; rfl
@[simp] theorem takeInput_iid (s : State) : (takeInput s).iid = s.iid := by rw [takeInput_frame]; rfl
@[simp] theorem takeInput_fault (s : State) : (takeInput s).fault = s.fault := by rw [takeInput_frame]; rfl
@[simp] theorem takeInput_ioLog (s : State) : (takeInput s).ioLog = s.ioLog := by rw [takeInput_frame]; rfl
@[simp] theorem takeInput_ioAnswers (s : State) : (takeInput s).ioAnswers = s.ioAnswers := by
  rw [takeInput_frame]; rfl
@[simp] theorem takeInput_memAnswers (s : State) : (takeInput s).memAnswers = (boundaryInput s).answers := rfl
@[simp] theorem takeInput_inputs (s : State) : (takeInput s).inputs = s.inputs.tail := rfl
@[simp] theorem takeInput_draws (s : State) : (takeInput s).draws = s.draws := by rw [takeInput_frame]; rfl

theorem takeInput_wf {s : State} (h : Memory.wf s.mem = true) : Memory.wf (takeInput s).mem = true :=
  placeBytes_wf h _

/-- The end of a run at the default of HALT_CONVENTION (70_reset_and_hazards.md R289). -/
theorem halted_iff (s : State) :
    Halted s ↔ readWord s.ip s = 0x1000 ∧ readWord (s.ip + 2) s = s.ip ∧
      (getFlag .ie s.fl = false ∨ ∀ b ∈ s.inputs, b.irq = none) := Iff.rfl

theorem step_of_reset {s : State} (h : (boundaryInput s).reset = true) :
    step s = .next (resetSequence (takeInput s)) := by
  simp [step, stepBoundary, h]

theorem step_of_fault {s : State} {c : Cause} (hf : s.fault = some c) (h : (boundaryInput s).reset = false) :
    step s = .next (takeInput s) := by
  simp [step, stepBoundary, h, hf]

theorem step_of_running {s : State} (hf : s.fault = none) (h : (boundaryInput s).reset = false) :
    step s = runBoundary (boundaryInput s).irq (takeInput s) := by
  simp [step, stepBoundary, h, hf]

/-- All that a step which gives a next state can be (70_reset_and_hazards.md R288): a reset, the fault state, an accepted
interrupt, or one instruction. -/
theorem step_cases {s t : State} (h : step s = .next t) :
    ((boundaryInput s).reset = true ∧ t = resetSequence (takeInput s)) ∨
      ((boundaryInput s).reset = false ∧ s.fault ≠ none ∧ t = takeInput s) ∨
      ((boundaryInput s).reset = false ∧ s.fault = none ∧ ∃ id, (boundaryInput s).irq = some id ∧
        getFlag .ie s.fl = true ∧ acceptInterrupt id (takeInput s) = .next t) ∨
      ((boundaryInput s).reset = false ∧ s.fault = none ∧ runInstruction (takeInput s) = .next t) := by
  cases hr : (boundaryInput s).reset
  · cases hf : s.fault with
    | some c =>
      rw [step_of_fault hf hr] at h
      exact .inr (.inl ⟨rfl, by simp, by simpa using h.symm⟩)
    | none =>
      rw [step_of_running hf hr] at h
      unfold runBoundary at h
      split at h
      · next id hid =>
        split at h
        · next hie => exact .inr (.inr (.inl ⟨rfl, rfl, id, hid, by simpa using hie, h⟩))
        · exact .inr (.inr (.inr ⟨rfl, rfl, h⟩))
      · exact .inr (.inr (.inr ⟨rfl, rfl, h⟩))
  · rw [step_of_reset hr] at h
    exact .inl ⟨rfl, by simpa using h.symm⟩

end Sys2Proof.Machine
end

