-- ==== Sys2Proof/Laws/Io.lean ====
section
/-! SUPPORT. What the shared operations of the I/O instructions can do, at the defaults of the parameters. -/

namespace Sys2Proof.Machine

@[simp] theorem unitTarget_eq (npc : Word) (op : Operand) (s : State) :
    unitTarget npc op s = some (.mem (operandValue .second npc op s)) := rfl

@[simp] theorem nextTarget_mem (a : Word) : nextTarget (.mem a) = .mem a := by
  simp [nextTarget, Config.blockMemStride]

@[simp] theorem unitDatum_eq (i : OperandIndex) (npc : Word) (op : Operand) (k : Nat) (s : State) :
    unitDatum i npc op k s = loadWord (.unit k) (operandValue i npc op s) s := by
  simp [unitDatum, Config.ioOperandReading, Config.blockMemStride]

/-- One unit received in memory: some word, recorded and stored. -/
theorem receiveUnits_succ (n : Nat) (io d : Word) (s : State) :
    receiveUnits (n + 1) io (.mem d) s =
      receiveUnits n (io + 1) (.mem d) (writeWord d (ioRead io s).1 (ioRead io s).2) := by
  simp [receiveUnits, writeLocation, Except.bind]

/-- Receiving in memory always completes, keeps the canonical form, and changes nothing outside the word at `d` but
the I/O record, the peer's answers and the count of draws. -/
theorem receiveUnits_frame (n : Nat) (io d : Word) (s : State) :
    ∃ t, receiveUnits n io (.mem d) s = .ok t ∧ MemSameOutside d s t ∧
      (Memory.wf s.mem = true → Memory.wf t.mem = true) ∧ OnlyChanges [.mem, .ioLog, .ioAnswers, .draws] s t := by
  induction n generalizing io s with
  | zero =>
    refine ⟨s, rfl, fun _ _ _ => rfl, id, fun p _ => ?_⟩
    cases p <;> first | rfl | (intro a; rfl)
  | succ n ih =>
    obtain ⟨w, l, dr, hw⟩ := ioRead_frame io s
    obtain ⟨t, ht, hm, hk, hf⟩ := ih (io + 1) (writeWord d (ioRead io s).1 (ioRead io s).2)
    rw [hw] at hm hk hf
    refine ⟨t, by rw [receiveUnits_succ, ht], fun x h1 h2 => ?_, fun h => hk (writeWord_wf h d w), fun p hp => ?_⟩
    · exact (hm x h1 h2).trans (readByte_writeWord_outside h1 h2 w _)
    · have h := hf p hp
      cases p <;> simp at hp <;> exact h

/-- Sending records one write for each unit, at successive I/O addresses, and changes nothing else. -/
theorem sendUnits_eq (ws : List Word) (io : Word) (s : State) :
    sendUnits ws io s =
      { s with ioLog := s.ioLog ++ ws.mapIdx fun k w => .write (io + BitVec.ofNat 16 k) w } := by
  induction ws generalizing io s with
  | nil => simp [sendUnits]
  | cons w ws ih =>
    have h : (fun (k : Nat) (v : Word) => IoEvent.write (io + 1 + BitVec.ofNat 16 k) v) =
        fun k v => .write (io + BitVec.ofNat 16 (k + 1)) v := by
      funext k v
      rw [BitVec.add_assoc, BitVec.add_comm 1, BitVec.ofNat_add]
      rfl
    rw [sendUnits, ih, h, List.mapIdx_cons]
    simp only [ioWrite, State.logIo, List.append_assoc, List.singleton_append, BitVec.add_zero]

end Sys2Proof.Machine
end

