-- ==== Sys2Proof/Laws/PerInstr.lean ====
section
/-! SUPPORT. Statements about each instruction as syntax, one lemma a constructor. -/

namespace Sys2Proof.Laws.EncodeLength

/-- The encoding of an instruction is as long as R99 says: 2 bytes and one or two for each operand, 6 at most. -/
def Statement (i : Instr) : Prop := (encode i).length = i.length ∧ 2 ≤ i.length ∧ i.length ≤ 6

theorem literalBytes_length (a : Operand) : a.literalBytes.length = a.size := by cases a <;> rfl

theorem size_le (a : Operand) : a.size ≤ 2 := by cases a <;> simp [Operand.size]

theorem of_none {i : Instr} (h : i.operands = []) : Statement i := by
  simp [Statement, encode, Instr.length, h, wordBytes]

theorem of_one {i : Instr} {a : Operand} (h : i.operands = [a]) : Statement i := by
  have := size_le a
  simp [Statement, encode, Instr.length, h, wordBytes, literalBytes_length]
  omega

theorem of_two {i : Instr} {a b : Operand} (h : i.operands = [a, b]) : Statement i := by
  have := size_le a
  have := size_le b
  simp [Statement, encode, Instr.length, h, wordBytes, literalBytes_length]
  omega

theorem adc (a : Operand) : Statement (.adc a) := of_one rfl
theorem add (a : Operand) : Statement (.add a) := of_one rfl
theorem and (a : Operand) : Statement (.and a) := of_one rfl
theorem bin (a b : Operand) : Statement (.bin a b) := of_two rfl
theorem bot (a b : Operand) : Statement (.bot a b) := of_two rfl
theorem call (a : Operand) : Statement (.call a) := of_one rfl
theorem cmp (a b : Operand) : Statement (.cmp a b) := of_two rfl
theorem dec (a : Operand) : Statement (.dec a) := of_one rfl
theorem div (a : Operand) : Statement (.div a) := of_one rfl
theorem idiv (a : Operand) : Statement (.idiv a) := of_one rfl
theorem imul (a : Operand) : Statement (.imul a) := of_one rfl
theorem inp (a b : Operand) : Statement (.inp a b) := of_two rfl
theorem inc (a : Operand) : Statement (.inc a) := of_one rfl
theorem int (a : Operand) : Statement (.int a) := of_one rfl
theorem iret : Statement .iret := of_none rfl
theorem jmp (a : Operand) : Statement (.jmp a) := of_one rfl
theorem jz (a : Operand) : Statement (.jz a) := of_one rfl
theorem jg (a : Operand) : Statement (.jg a) := of_one rfl
theorem jge (a : Operand) : Statement (.jge a) := of_one rfl
theorem jl (a : Operand) : Statement (.jl a) := of_one rfl
theorem jle (a : Operand) : Statement (.jle a) := of_one rfl
theorem jc (a : Operand) : Statement (.jc a) := of_one rfl
theorem js (a : Operand) : Statement (.js a) := of_one rfl
theorem jnz (a : Operand) : Statement (.jnz a) := of_one rfl
theorem jnc (a : Operand) : Statement (.jnc a) := of_one rfl
theorem jns (a : Operand) : Statement (.jns a) := of_one rfl
theorem ld (a b : Operand) : Statement (.ld a b) := of_two rfl
theorem mov (a b : Operand) : Statement (.mov a b) := of_two rfl
theorem mul (a : Operand) : Statement (.mul a) := of_one rfl
theorem neg (a : Operand) : Statement (.neg a) := of_one rfl
theorem nop : Statement .nop := of_none rfl
theorem not (a : Operand) : Statement (.not a) := of_one rfl
theorem or (a : Operand) : Statement (.or a) := of_one rfl
theorem out (a b : Operand) : Statement (.out a b) := of_two rfl
theorem pop (a : Operand) : Statement (.pop a) := of_one rfl
theorem push (a : Operand) : Statement (.push a) := of_one rfl
theorem ret : Statement .ret := of_none rfl
theorem rol (a b : Operand) : Statement (.rol a b) := of_two rfl
theorem ror (a b : Operand) : Statement (.ror a b) := of_two rfl
theorem sl (a b : Operand) : Statement (.sl a b) := of_two rfl
theorem sr (a b : Operand) : Statement (.sr a b) := of_two rfl
theorem st (a b : Operand) : Statement (.st a b) := of_two rfl
theorem clo : Statement .clo := of_none rfl
theorem clc : Statement .clc := of_none rfl
theorem clz : Statement .clz := of_none rfl
theorem cln : Statement .cln := of_none rfl
theorem cli : Statement .cli := of_none rfl
theorem sto : Statement .sto := of_none rfl
theorem stc : Statement .stc := of_none rfl
theorem stz : Statement .stz := of_none rfl
theorem stn : Statement .stn := of_none rfl
theorem sti : Statement .sti := of_none rfl
theorem sub (a : Operand) : Statement (.sub a) := of_one rfl
theorem test (a : Operand) : Statement (.test a) := of_one rfl
theorem xor (a : Operand) : Statement (.xor a) := of_one rfl

end Sys2Proof.Laws.EncodeLength
end

