-- ==== Sys2Proof/Tests/Slice0.lean ====
section
/-! SUPPORT. Tests. Expected values are the worked vectors of spec 95_test_vectors.md, named by their ids, or the
tables of 30_encoding.md and 43_control_flow.md, or the rule a test names; the witnesses meet the hypotheses of the statements. -/

namespace Sys2Proof.Tests

open Sys2Proof Sys2Proof.Machine

/-- The bytes stand at 0x0100 and IP points there (the convention of 95_test_vectors.md). -/
def placed (bytes : List Byte) (s : State) : State := storeBytes 0x100 bytes (s.setIp 0x100)

/-- One step gives a next state with the property. -/
def ends (s : State) (p : State → Bool) : Bool :=
  match step s with
  | .next t => p t
  | _ => false

/-- The bytes decode to the instruction, and it is encoded as them. -/
def reads (bytes : List Byte) (i : Instr) : Bool := decide (decode bytes = .ok i) && encode i == bytes

/-! ## Decoding: one word of each row of the opcode table, bit by bit -/

theorem test_decode_adc :
    reads [0b00000000, 0b00000000, 0x34, 0x12] (.adc (.lit .plain false 0x1234)) = true := by decide
theorem test_decode_add : reads [0b11100000, 0b00000001, 0x05] (.add (.reg .indirect true .bcl)) = true := by decide
theorem test_decode_and :
    reads [0b00010000, 0b00000010, 0x01, 0x80] (.and (.lit .direct false 0x8001)) = true := by decide
theorem test_decode_bin :
    reads [0b10000110, 0b00000011, 0x01, 0xF0, 0xFF] (.bin (.reg .plain false .ah) (.lit .indirect true 0xFFF0)) = true := by decide
theorem test_decode_bot :
    reads [0b10010010, 0b00000100, 0x10, 0x00, 0x20] (.bot (.reg .direct false .iid) (.lit .indirect false 0x2000)) = true := by decide
theorem test_decode_call : reads [0b11010000, 0b00000101, 0x08] (.call (.reg .direct true .ccl)) = true := by decide
theorem test_decode_cmp :
    reads [0b01011010, 0b00000111, 0x10, 0x00, 0x0C] (.cmp (.lit .direct true 0x0010) (.reg .indirect false .sp)) = true := by decide
theorem test_decode_dec : reads [0b10000000, 0b00001000, 0x07] (.dec (.reg .plain false .ch)) = true := by decide
theorem test_decode_div :
    reads [0b00000000, 0b00001001, 0x34, 0x12] (.div (.lit .plain false 0x1234)) = true := by decide
theorem test_decode_idiv : reads [0b11100000, 0b00001010, 0x05] (.idiv (.reg .indirect true .bcl)) = true := by decide
theorem test_decode_imul :
    reads [0b00010000, 0b00001011, 0x01, 0x80] (.imul (.lit .direct false 0x8001)) = true := by decide
theorem test_decode_inp :
    reads [0b10000110, 0b00001100, 0x01, 0xF0, 0xFF] (.inp (.reg .plain false .ah) (.lit .indirect true 0xFFF0)) = true := by decide
theorem test_decode_inc : reads [0b11000000, 0b00001101, 0x0B] (.inc (.reg .plain true .dcl)) = true := by decide
theorem test_decode_int :
    reads [0b00000000, 0b00001110, 0xCD, 0xAB] (.int (.lit .plain false 0xABCD)) = true := by decide
theorem test_decode_iret : reads [0b00000000, 0b00001111] .iret = true := by decide
theorem test_decode_jmp : reads [0b10010000, 0b00010000, 0x10] (.jmp (.reg .direct false .iid)) = true := by decide
theorem test_decode_jz :
    reads [0b00100000, 0b00010001, 0x00, 0x20] (.jz (.lit .indirect false 0x2000)) = true := by decide
theorem test_decode_jg : reads [0b11010000, 0b00010010, 0x08] (.jg (.reg .direct true .ccl)) = true := by decide
theorem test_decode_jge :
    reads [0b01010000, 0b00010011, 0x10, 0x00] (.jge (.lit .direct true 0x0010)) = true := by decide
theorem test_decode_jl : reads [0b10100000, 0b00010100, 0x0C] (.jl (.reg .indirect false .sp)) = true := by decide
theorem test_decode_jle :
    reads [0b00000000, 0b00010101, 0x34, 0x12] (.jle (.lit .plain false 0x1234)) = true := by decide
theorem test_decode_jc : reads [0b11100000, 0b00010110, 0x05] (.jc (.reg .indirect true .bcl)) = true := by decide
theorem test_decode_js :
    reads [0b00010000, 0b00010111, 0x01, 0x80] (.js (.lit .direct false 0x8001)) = true := by decide
theorem test_decode_jnz : reads [0b10000000, 0b00011000, 0x01] (.jnz (.reg .plain false .ah)) = true := by decide
theorem test_decode_jnc :
    reads [0b01100000, 0b00011001, 0xF0, 0xFF] (.jnc (.lit .indirect true 0xFFF0)) = true := by decide
theorem test_decode_jns : reads [0b10010000, 0b00011010, 0x10] (.jns (.reg .direct false .iid)) = true := by decide
theorem test_decode_ld :
    reads [0b10000010, 0b00011011, 0x07, 0x00, 0x20] (.ld (.reg .plain false .ch) (.lit .indirect false 0x2000)) = true := by decide
theorem test_decode_mov :
    reads [0b01001100, 0b00011100, 0xFF, 0x00, 0x0B] (.mov (.lit .plain true 0x00FF) (.reg .plain true .dcl)) = true := by decide
theorem test_decode_mul : reads [0b11010000, 0b00011101, 0x08] (.mul (.reg .direct true .ccl)) = true := by decide
theorem test_decode_neg : reads [0b10000000, 0b00011110, 0x0E] (.neg (.reg .plain false .ar)) = true := by decide
theorem test_decode_nop : reads [0b00000000, 0b00011111] .nop = true := by decide
theorem test_decode_not :
    reads [0b00010000, 0b00100000, 0xFE, 0xFF] (.not (.lit .direct false 0xFFFE)) = true := by decide
theorem test_decode_or : reads [0b01010000, 0b00100001, 0x10, 0x00] (.or (.lit .direct true 0x0010)) = true := by decide
theorem test_decode_out :
    reads [0b10100000, 0b00100010, 0x0C, 0x34, 0x12] (.out (.reg .indirect false .sp) (.lit .plain false 0x1234)) = true := by decide
theorem test_decode_pop : reads [0b10100000, 0b00100011, 0x02] (.pop (.reg .indirect false .acl)) = true := by decide
theorem test_decode_push : reads [0b11100000, 0b00100100, 0x05] (.push (.reg .indirect true .bcl)) = true := by decide
theorem test_decode_ret : reads [0b00000000, 0b00100101] .ret = true := by decide
theorem test_decode_rol :
    reads [0b01010001, 0b00100110, 0x04, 0x00, 0x01, 0x80] (.rol (.lit .direct true 0x0004) (.lit .direct false 0x8001)) = true := by decide
theorem test_decode_ror :
    reads [0b11101000, 0b00100111, 0x0A, 0x01] (.ror (.reg .indirect true .dh) (.reg .plain false .ah)) = true := by decide
theorem test_decode_sl :
    reads [0b00100110, 0b00101000, 0x00, 0x01, 0xF0, 0xFF] (.sl (.lit .indirect false 0x0100) (.lit .indirect true 0xFFF0)) = true := by decide
theorem test_decode_sr :
    reads [0b10011001, 0b00101001, 0x06, 0x10] (.sr (.reg .direct false .cl) (.reg .direct false .iid)) = true := by decide
theorem test_decode_st :
    reads [0b00101101, 0b00101010, 0x00, 0x20, 0x09] (.st (.lit .indirect false 0x2000) (.reg .direct true .dl)) = true := by decide
theorem test_decode_clo : reads [0b00000000, 0b00101011] .clo = true := by decide
theorem test_decode_clc : reads [0b00000000, 0b00101100] .clc = true := by decide
theorem test_decode_clz : reads [0b00000000, 0b00101101] .clz = true := by decide
theorem test_decode_cln : reads [0b00000000, 0b00101110] .cln = true := by decide
theorem test_decode_cli : reads [0b00000000, 0b00101111] .cli = true := by decide
theorem test_decode_sto : reads [0b00000000, 0b00111011] .sto = true := by decide
theorem test_decode_stc : reads [0b00000000, 0b00111100] .stc = true := by decide
theorem test_decode_stz : reads [0b00000000, 0b00111101] .stz = true := by decide
theorem test_decode_stn : reads [0b00000000, 0b00111110] .stn = true := by decide
theorem test_decode_sti : reads [0b00000000, 0b00111111] .sti = true := by decide
theorem test_decode_sub : reads [0b11010000, 0b01001011, 0x08] (.sub (.reg .direct true .ccl)) = true := by decide
theorem test_decode_test :
    reads [0b01010000, 0b01001100, 0x10, 0x00] (.test (.lit .direct true 0x0010)) = true := by decide
theorem test_decode_xor : reads [0b10100000, 0b01001101, 0x0C] (.xor (.reg .indirect false .sp)) = true := by decide

/-! ## One step of each instruction -/

/-- Vector A8 (R133). -/
theorem test_adc_A8 : ends (placed [0x00, 0x00, 0x00, 0x00]
    { State.reset with acl := 0xFFFF, fl := 0x4000 })
    (fun t => t.acl == 0x0 && t.fl == 0x4000 && t.ip == 0x104) = true := by decide
/-- Vector A9 (R133). -/
theorem test_adc_A9 : ends (placed [0x00, 0x00, 0x10, 0x00]
    { State.reset with acl := 0x1, fl := 0x4000 })
    (fun t => t.acl == 0x12 && t.fl == 0x0 && t.ip == 0x104) = true := by decide
/-- Vector A1 (R134, R130). -/
theorem test_add_A1 : ends (placed [0x00, 0x01, 0x01, 0x00]
    { State.reset with acl := 0x7FFF })
    (fun t => t.acl == 0x8000 && t.fl == 0x9000 && t.ip == 0x104) = true := by decide
/-- Vector A2 (R134, R130). -/
theorem test_add_A2 : ends (placed [0x00, 0x01, 0x00, 0x90]
    { State.reset with acl := 0x7000 })
    (fun t => t.acl == 0x0 && t.fl == 0x4000 && t.ip == 0x104) = true := by decide
/-- Vector B1 (R151). -/
theorem test_and_B1 : ends (placed [0x00, 0x02, 0x0F, 0x0F]
    { State.reset with acl := 0xF0F0, fl := 0xD000 })
    (fun t => t.acl == 0x0 && t.fl == 0x3000 && t.ip == 0x104) = true := by decide
/-- Vector B2 (R151). -/
theorem test_and_B2 : ends (placed [0x00, 0x02, 0x00, 0xFF]
    { State.reset with acl := 0x8234, fl := 0xC000 })
    (fun t => t.acl == 0x8200 && t.fl == 0x0 && t.ip == 0x104) = true := by decide
/-- Vector I4 (R208). -/
theorem test_bin_I4 : ends (placed [0x00, 0x03, 0x20, 0x00, 0x00, 0x20]
    { State.reset with acl := 0xFF03, ioAnswers := [0x1111, 0x2222, 0x3333] })
    (fun t => t.ip == 0x106 && readWord 0x2000 t == 0x3333 && t.ioLog == [.read 0x20 0x1111, .read 0x21 0x2222, .read 0x22 0x3333]) = true := by
  decide
/-- Vector I7 (R209). -/
theorem test_bot_I7 : ends (placed [0x00, 0x04, 0xFF, 0xFF, 0x00, 0x20]
    (writeWord 0x2000 0xABCD { State.reset with acl := 0x2 }))
    (fun t => t.ip == 0x106 && t.ioLog == [.write 0xFFFF 0xABCD, .write 0 0xABCD]) = true := by decide
/-- Vector J6 (R197). -/
theorem test_call_J6 : ends (placed [0x00, 0x05, 0x00, 0x02]
    { State.reset with sp := 0x8000 })
    (fun t => t.sp == 0x7FFE && t.ip == 0x200 && readWord 0x7FFE t == 0x0104) = true := by decide
/-- Vector A17 (R136). -/
theorem test_cmp_A17 : ends (placed [0x00, 0x07, 0x05, 0x00, 0x03, 0x00]
    State.reset)
    (fun t => t.fl == 0x5000 && t.ip == 0x106) = true := by decide
/-- Vector A20 (R136). -/
theorem test_cmp_A20 : ends (placed [0x00, 0x07, 0x01, 0x00, 0x00, 0x80]
    State.reset)
    (fun t => t.fl == 0x8000 && t.ip == 0x106) = true := by decide
/-- Vector A25 (R138). -/
theorem test_dec_A25 : ends (placed [0x80, 0x08, 0x01]
    { State.reset with acl := 0x34 })
    (fun t => t.acl == 0xFF34 && t.ip == 0x103) = true := by decide
/-- Vector A42 (R142). -/
theorem test_div_A42 : ends (placed [0x80, 0x09, 0x00]
    { State.reset with acl := 0x102 })
    (fun t => t.acl == 0x81 && t.ip == 0x103) = true := by decide
/-- Vector A44 (R143). -/
theorem test_idiv_A44 : ends (placed [0x00, 0x0A, 0x02, 0x00]
    { State.reset with acl := 0xFFF9 })
    (fun t => t.acl == 0xFFFD && t.ip == 0x104) = true := by decide
/-- Vector A46 (R143). -/
theorem test_idiv_A46 : ends (placed [0x00, 0x0A, 0xFF, 0xFF]
    { State.reset with acl := 0x8000 })
    (fun t => t.acl == 0x8000 && t.ip == 0x104) = true := by decide
/-- Vector A35 (R141). -/
theorem test_imul_A35 : ends (placed [0x00, 0x0B, 0xFF, 0xFF]
    { State.reset with acl := 0x2 })
    (fun t => t.acl == 0xFFFE && t.fl == 0xC000 && t.ip == 0x104) = true := by decide
/-- Vector A37 (R141). -/
theorem test_imul_A37 : ends (placed [0x00, 0x0B, 0x00, 0x01]
    { State.reset with acl := 0x100 })
    (fun t => t.acl == 0x0 && t.fl == 0x0 && t.ip == 0x104) = true := by decide
/-- Vector A22 (R137). -/
theorem test_inc_A22 : ends (placed [0x80, 0x0D, 0x00]
    { State.reset with acl := 0x12FF, fl := 0xF000 })
    (fun t => t.acl == 0x1200 && t.fl == 0xF000 && t.ip == 0x103) = true := by decide
/-- Vector A24 (R137). -/
theorem test_inc_A24 : ends (placed [0x80, 0x0D, 0x0C]
    { State.reset with sp := 0x7FFE })
    (fun t => t.sp == 0x7FFF && t.ip == 0x103) = true := by decide
/-- Vector I2 (R206). -/
theorem test_inp_I2 : ends (placed [0x81, 0x0C, 0x05, 0x00, 0x20]
    (writeWord 0x2000 0x3000 { State.reset with bcl := 0x10, ioAnswers := [0xBEEF] }))
    (fun t => t.ip == 0x105 && readWord 0x3000 t == 0xBEEF && t.ioLog == [.read 0x10 0xBEEF]) = true := by decide
/-- Vector F12 (R231). -/
theorem test_int_F12 : ends (placed [0x00, 0x0E, 0x21, 0x00]
    { State.reset with fl := 0x4000, sp := 0x8000 })
    (fun t => t.ip == 0x104) = true := by decide
/-- Vector F13 (R231). -/
theorem test_int_F13 : ends (placed [0x00, 0x0E, 0x34, 0x12]
    (writeWord 0xFFFC 0x400 { State.reset with fl := 0x800, sp := 0x8000 }))
    (fun t => t.iid == 0x1234 && t.sp == 0x7FFE && t.ip == 0x400 && t.fl == 0x0 && readWord 0x7FFE t == 0x0104) = true := by
  decide
/-- Vector F16 (R232). -/
theorem test_iret_F16 : ends (placed [0x00, 0x0F]
    (writeWord 0x7FFE 0x104 { State.reset with fl := 0x2000, iid := 0x21, sp := 0x7FFE }))
    (fun t => t.fl == 0x2800 && t.iid == 0x0 && t.ip == 0x104 && t.sp == 0x8000) = true := by decide
/-- Vector J4 (R186, R103). -/
theorem test_jmp_J4 : ends (placed [0x50, 0x10, 0x10, 0x00]
    (writeWord 0x110 0x500 State.reset))
    (fun t => t.ip == 0x500) = true := by decide
/-- Vector M1 (R172, R177). -/
theorem test_ld_M1 : ends (placed [0x81, 0x1B, 0x00, 0x00, 0x20]
    (writeWord 0x2000 0xBEEF { State.reset with acl := 0x1234 }))
    (fun t => t.acl == 0x12EF && t.ip == 0x105) = true := by decide
/-- Vector M3 (R172, R35). -/
theorem test_ld_M3 : ends (placed [0x80, 0x1B, 0x0D, 0x00, 0x03]
    State.reset)
    (fun t => t.ip == 0x300) = true := by decide
/-- Vector M4 (R173). -/
theorem test_mov_M4 : ends (placed [0x08, 0x1C, 0x40, 0x00, 0x00]
    { State.reset with acl := 0xFF00 })
    (fun t => t.acl == 0xFF40 && t.ip == 0x105) = true := by decide
/-- Vector M5 (R173, R177). -/
theorem test_mov_M5 : ends (placed [0x88, 0x1C, 0x02, 0x04]
    { State.reset with acl := 0x1234, bcl := 0x5678 })
    (fun t => t.bcl == 0x3478 && t.ip == 0x104) = true := by decide
/-- Vector A33 (R140). -/
theorem test_mul_A33 : ends (placed [0x80, 0x1D, 0x05]
    { State.reset with acl := 0xFFFF, bcl := 0xFFFF })
    (fun t => t.acl == 0x1 && t.fl == 0xC000 && t.ip == 0x103) = true := by decide
/-- Vector A34 (R140). -/
theorem test_mul_A34 : ends (placed [0x00, 0x1D, 0x00, 0x00]
    { State.reset with acl := 0x1234, fl := 0xF000 })
    (fun t => t.acl == 0x0 && t.fl == 0x3000 && t.ip == 0x104) = true := by decide
/-- Vector A28 (R139). -/
theorem test_neg_A28 : ends (placed [0x80, 0x1E, 0x00]
    { State.reset with acl := 0x1201 })
    (fun t => t.acl == 0x12FF && t.ip == 0x103) = true := by decide
/-- Vector A30 (R139). -/
theorem test_neg_A30 : ends (placed [0x10, 0x1E, 0x00, 0x20]
    (writeWord 0x2000 0x5 State.reset))
    (fun t => t.ip == 0x104 && readWord 0x2000 t == 0xFFFB) = true := by decide
/-- Vector J10 (R199). -/
theorem test_nop_J10 : ends (placed [0x00, 0x1F]
    State.reset)
    (fun t => t.ip == 0x102) = true := by decide
/-- Vector B6 (R154). -/
theorem test_not_B6 : ends (placed [0x80, 0x20, 0x00]
    { State.reset with acl := 0x12F0 })
    (fun t => t.acl == 0x120F && t.ip == 0x103) = true := by decide
/-- Vector B3 (R152). -/
theorem test_or_B3 : ends (placed [0x00, 0x21, 0x0F, 0x0F]
    { State.reset with acl := 0xF0F0, fl := 0xF000 })
    (fun t => t.acl == 0xFFFF && t.fl == 0xF000 && t.ip == 0x104) = true := by decide
/-- Vector I3 (R207). -/
theorem test_out_I3 : ends (placed [0x00, 0x22, 0x00, 0x20, 0x10, 0x00]
    (writeWord 0x2000 0xCAFE State.reset))
    (fun t => t.ip == 0x106 && t.ioLog == [.write 0x10 0xCAFE]) = true := by decide
/-- Vector M21 (R176). -/
theorem test_pop_M21 : ends (placed [0x80, 0x23, 0x00]
    (writeWord 0x7FFE 0x1234 { State.reset with sp := 0x7FFE, acl := 0xFFFF }))
    (fun t => t.acl == 0xFF34 && t.sp == 0x8000 && t.ip == 0x103) = true := by decide
/-- Vector M22 (R176). -/
theorem test_pop_M22 : ends (placed [0x80, 0x23, 0x0C]
    (writeWord 0x7FFE 0x4000 { State.reset with sp := 0x7FFE }))
    (fun t => t.sp == 0x4002 && t.ip == 0x103) = true := by decide
/-- Vector M14 (R175, R170). -/
theorem test_push_M14 : ends (placed [0x00, 0x24, 0xCD, 0xAB]
    { State.reset with sp := 0x8000 })
    (fun t => t.sp == 0x7FFE && t.ip == 0x104 && readByte 0x7FFE t == 0xCD && readByte 0x7FFF t == 0xAB) = true := by
  decide
/-- Vector M15 (R175). -/
theorem test_push_M15 : ends (placed [0x80, 0x24, 0x0C]
    { State.reset with sp := 0x8000 })
    (fun t => t.sp == 0x7FFE && t.ip == 0x103 && readWord 0x7FFE t == 0x8000) = true := by decide
/-- Vector J9 (R198). -/
theorem test_ret_J9 : ends (placed [0x00, 0x25]
    (writeWord 0x7FFE 0x104 { State.reset with sp := 0x7FFE }))
    (fun t => t.ip == 0x104 && t.sp == 0x8000) = true := by decide
/-- Vector B22 (R159). -/
theorem test_rol_B22 : ends (placed [0x80, 0x26, 0x02, 0x10, 0x00]
    { State.reset with acl := 0x1234 })
    (fun t => t.acl == 0x1234 && t.ip == 0x105) = true := by decide
/-- Vector B24 (R159). -/
theorem test_rol_B24 : ends (placed [0x80, 0x26, 0x00, 0x09, 0x00]
    { State.reset with acl := 0x5581 })
    (fun t => t.acl == 0x5503 && t.ip == 0x105) = true := by decide
/-- Vector B26 (R160). -/
theorem test_ror_B26 : ends (placed [0x80, 0x27, 0x00, 0x01, 0x00]
    { State.reset with acl := 0x5581 })
    (fun t => t.acl == 0x55C0 && t.ip == 0x105) = true := by decide
/-- Vector B27 (R160). -/
theorem test_ror_B27 : ends (placed [0x10, 0x27, 0x00, 0x20, 0x08, 0x00]
    (writeWord 0x2000 0x1234 State.reset))
    (fun t => t.ip == 0x106 && readWord 0x2000 t == 0x3412) = true := by decide
/-- Vector B13 (R157). -/
theorem test_sl_B13 : ends (placed [0x80, 0x28, 0x00, 0x08, 0x00]
    { State.reset with acl := 0x12FF })
    (fun t => t.acl == 0x1200 && t.ip == 0x105) = true := by decide
/-- Vector B15 (R157, R105). -/
theorem test_sl_B15 : ends (placed [0x20, 0x28, 0x00, 0x20, 0x01, 0x00]
    (writeWord 0x3000 0x4001 (writeWord 0x2000 0x3000 State.reset)))
    (fun t => t.ip == 0x106 && readWord 0x3000 t == 0x8002) = true := by decide
/-- Vector B17 (R158). -/
theorem test_sr_B17 : ends (placed [0x80, 0x29, 0x01, 0x01, 0x00]
    { State.reset with acl := 0x8134 })
    (fun t => t.acl == 0x4034 && t.ip == 0x105) = true := by decide
/-- Vector B19 (R158). -/
theorem test_sr_B19 : ends (placed [0x80, 0x29, 0x02, 0xFF, 0xFF]
    { State.reset with acl := 0x8000 })
    (fun t => t.acl == 0x0 && t.ip == 0x105) = true := by decide
/-- Vector M11 (R174, R177). -/
theorem test_st_M11 : ends (placed [0x82, 0x2A, 0x00, 0x00, 0x20]
    (writeWord 0x3000 0xFFFF (writeWord 0x2000 0x3000 { State.reset with acl := 0xCAFE })))
    (fun t => t.ip == 0x105 && readWord 0x3000 t == 0x00FE) = true := by decide
/-- Vector M12 (R174, R66). -/
theorem test_st_M12 : ends (placed [0x09, 0x2A, 0x34, 0x12, 0x05]
    { State.reset with bcl := 0x2001 })
    (fun t => t.ip == 0x105 && readByte 0x2001 t == 0x34 && readByte 0x2002 t == 0x12) = true := by decide
/-- Vector F1 (R221). -/
theorem test_clo_F1 : ends (placed [0x00, 0x2B]
    { State.reset with fl := 0xF800 })
    (fun t => t.fl == 0x7800 && t.ip == 0x102) = true := by decide
/-- Vector F2 (R222). -/
theorem test_clc_F2 : ends (placed [0x00, 0x2C]
    { State.reset with fl := 0xF800 })
    (fun t => t.fl == 0xB800 && t.ip == 0x102) = true := by decide
/-- Vector F3 (R223). -/
theorem test_clz_F3 : ends (placed [0x00, 0x2D]
    { State.reset with fl := 0xF800 })
    (fun t => t.fl == 0xD800 && t.ip == 0x102) = true := by decide
/-- Vector F4 (R224). -/
theorem test_cln_F4 : ends (placed [0x00, 0x2E]
    { State.reset with fl := 0xF800 })
    (fun t => t.fl == 0xE800 && t.ip == 0x102) = true := by decide
/-- Vector F5 (R225). -/
theorem test_cli_F5 : ends (placed [0x00, 0x2F]
    { State.reset with fl := 0xF800 })
    (fun t => t.fl == 0xF000 && t.ip == 0x102) = true := by decide
/-- Vector F6 (R226). -/
theorem test_sto_F6 : ends (placed [0x00, 0x3B]
    { State.reset with fl := 0x0 })
    (fun t => t.fl == 0x8000 && t.ip == 0x102) = true := by decide
/-- Vector F7 (R227). -/
theorem test_stc_F7 : ends (placed [0x00, 0x3C]
    { State.reset with fl := 0x0 })
    (fun t => t.fl == 0x4000 && t.ip == 0x102) = true := by decide
/-- Vector F8 (R228). -/
theorem test_stz_F8 : ends (placed [0x00, 0x3D]
    { State.reset with fl := 0x0 })
    (fun t => t.fl == 0x2000 && t.ip == 0x102) = true := by decide
/-- Vector F9 (R229). -/
theorem test_stn_F9 : ends (placed [0x00, 0x3E]
    { State.reset with fl := 0x0 })
    (fun t => t.fl == 0x1000 && t.ip == 0x102) = true := by decide
/-- Vector F10 (R230). -/
theorem test_sti_F10 : ends (placed [0x00, 0x3F]
    { State.reset with fl := 0x0 })
    (fun t => t.fl == 0x800 && t.ip == 0x102) = true := by decide
/-- Vector A12 (R135, R131). -/
theorem test_sub_A12 : ends (placed [0x00, 0x4B, 0x01, 0x00]
    { State.reset with acl := 0x0 })
    (fun t => t.acl == 0xFFFF && t.fl == 0x5000 && t.ip == 0x104) = true := by decide
/-- Vector A15 (R135). -/
theorem test_sub_A15 : ends (placed [0x00, 0x4B, 0x00, 0x80]
    { State.reset with acl := 0x0 })
    (fun t => t.acl == 0x8000 && t.fl == 0xD000 && t.ip == 0x104) = true := by decide
/-- Vector B8 (R155). -/
theorem test_test_B8 : ends (placed [0x00, 0x4C, 0x00, 0x80]
    { State.reset with acl := 0x7FFF, fl := 0xC000 })
    (fun t => t.fl == 0x2000 && t.ip == 0x104 && t.acl == 0x7FFF) = true := by decide
/-- Vector B9 (R155). -/
theorem test_test_B9 : ends (placed [0x00, 0x4C, 0x01, 0x00]
    { State.reset with acl := 0x3, fl := 0xF000 })
    (fun t => t.fl == 0x1000 && t.ip == 0x104) = true := by decide
/-- Vector B4 (R153). -/
theorem test_xor_B4 : ends (placed [0x00, 0x4D, 0xFF, 0xFF]
    { State.reset with acl := 0xFFFF })
    (fun t => t.acl == 0x0 && t.fl == 0x0 && t.ip == 0x104) = true := by decide

/-! ### The table of conditional jumps (43_control_flow.md R187 to R196) -/

theorem test_jz_taken : ends (placed [0x00, 0x11, 0x00, 0x02] { State.reset with fl := 0x2000 })
    (fun t => t.ip == 0x200 && t.fl == 0x2000) = true := by decide
theorem test_jz_not_taken : ends (placed [0x00, 0x11, 0x00, 0x02] { State.reset with fl := 0x5000 })
    (fun t => t.ip == 0x104 && t.fl == 0x5000) = true := by decide
theorem test_jg_taken : ends (placed [0x00, 0x12, 0x00, 0x02] { State.reset with fl := 0x9000 })
    (fun t => t.ip == 0x200 && t.fl == 0x9000) = true := by decide
theorem test_jg_not_taken : ends (placed [0x00, 0x12, 0x00, 0x02] { State.reset with fl := 0x1000 })
    (fun t => t.ip == 0x104 && t.fl == 0x1000) = true := by decide
theorem test_jge_taken : ends (placed [0x00, 0x13, 0x00, 0x02] { State.reset with fl := 0x9000 })
    (fun t => t.ip == 0x200 && t.fl == 0x9000) = true := by decide
theorem test_jge_not_taken : ends (placed [0x00, 0x13, 0x00, 0x02] { State.reset with fl := 0x8000 })
    (fun t => t.ip == 0x104 && t.fl == 0x8000) = true := by decide
theorem test_jl_taken : ends (placed [0x00, 0x14, 0x00, 0x02] { State.reset with fl := 0x8000 })
    (fun t => t.ip == 0x200 && t.fl == 0x8000) = true := by decide
theorem test_jl_not_taken : ends (placed [0x00, 0x14, 0x00, 0x02] { State.reset with fl := 0x9000 })
    (fun t => t.ip == 0x104 && t.fl == 0x9000) = true := by decide
theorem test_jle_taken : ends (placed [0x00, 0x15, 0x00, 0x02] { State.reset with fl := 0x2000 })
    (fun t => t.ip == 0x200 && t.fl == 0x2000) = true := by decide
theorem test_jle_not_taken : ends (placed [0x00, 0x15, 0x00, 0x02] { State.reset with fl := 0x0 })
    (fun t => t.ip == 0x104 && t.fl == 0x0) = true := by decide
theorem test_jc_taken : ends (placed [0x00, 0x16, 0x00, 0x02] { State.reset with fl := 0x4000 })
    (fun t => t.ip == 0x200 && t.fl == 0x4000) = true := by decide
theorem test_jc_not_taken : ends (placed [0x00, 0x16, 0x00, 0x02] { State.reset with fl := 0xB000 })
    (fun t => t.ip == 0x104 && t.fl == 0xB000) = true := by decide
theorem test_js_taken : ends (placed [0x00, 0x17, 0x00, 0x02] { State.reset with fl := 0x1000 })
    (fun t => t.ip == 0x200 && t.fl == 0x1000) = true := by decide
theorem test_js_not_taken : ends (placed [0x00, 0x17, 0x00, 0x02] { State.reset with fl := 0xE000 })
    (fun t => t.ip == 0x104 && t.fl == 0xE000) = true := by decide
theorem test_jnz_taken : ends (placed [0x00, 0x18, 0x00, 0x02] { State.reset with fl := 0x5000 })
    (fun t => t.ip == 0x200 && t.fl == 0x5000) = true := by decide
theorem test_jnz_not_taken : ends (placed [0x00, 0x18, 0x00, 0x02] { State.reset with fl := 0x2000 })
    (fun t => t.ip == 0x104 && t.fl == 0x2000) = true := by decide
theorem test_jnc_taken : ends (placed [0x00, 0x19, 0x00, 0x02] { State.reset with fl := 0xB000 })
    (fun t => t.ip == 0x200 && t.fl == 0xB000) = true := by decide
theorem test_jnc_not_taken : ends (placed [0x00, 0x19, 0x00, 0x02] { State.reset with fl := 0x4000 })
    (fun t => t.ip == 0x104 && t.fl == 0x4000) = true := by decide
theorem test_jns_taken : ends (placed [0x00, 0x1A, 0x00, 0x02] { State.reset with fl := 0xE000 })
    (fun t => t.ip == 0x200 && t.fl == 0xE000) = true := by decide
theorem test_jns_not_taken : ends (placed [0x00, 0x1A, 0x00, 0x02] { State.reset with fl := 0x1000 })
    (fun t => t.ip == 0x104 && t.fl == 0x1000) = true := by decide

/-! ## Well-formedness and decoding refuse what they should -/

/-- One ill-formed term for each operand class (30_encoding.md R102). -/
theorem test_wellFormed_refuses_R : (Instr.inc (.lit .direct false 0x2000)).wellFormed = false := by decide
theorem test_wellFormed_refuses_VI :
    (Instr.mov (.lit .direct false 0x2000) (.reg .plain false .acl)).wellFormed = false := by decide
theorem test_wellFormed_refuses_I : (Instr.int (.reg .plain false .acl)).wellFormed = false := by decide
theorem test_wellFormed_refuses_L : (Instr.neg (.lit .plain false 1)).wellFormed = false := by decide
theorem test_wellFormed_refuses_M : (Instr.st (.lit .plain false 1) (.lit .plain true 2)).wellFormed = false := by
  decide
/-- Each operand place is checked, not the first alone. -/
theorem test_wellFormed_refuses_second :
    (Instr.ld (.reg .plain false .acl) (.lit .plain false 1)).wellFormed = true ∧
      (Instr.mov (.lit .plain false 1) (.lit .plain false 2)).wellFormed = false := by decide

/-- Vectors X1, X3, X6, X7, X18. -/
theorem test_decode_illegal_opcode : ∀ bytes ∈ ([[0x00, 0x06], [0x00, 0x3A], [0x00, 0x4E], [0xFF, 0xFF],
    [0x30, 0x06]] : List (List Byte)), decode (bytes ++ [0, 0, 0, 0]) = .error .illegalOpcode := by decide
/-- Vectors X8, X9, X10. -/
theorem test_decode_invalid_mode : ∀ bytes ∈ ([[0x30, 0x01, 0x00, 0x20], [0xB0, 0x01, 0x05],
    [0x07, 0x07, 0x00, 0x00, 0x00, 0x00]] : List (List Byte)),
    decode bytes = .error .invalidAddressingMode := by decide
/-- Vectors X11 to X14, F15, M13. -/
theorem test_decode_operand_errors : decode [0x80, 0x01, 0x11] = .error .invalidRegister ∧
    ∀ bytes ∈ ([[0x10, 0x0D, 0x00, 0x20], [0x18, 0x1C, 0x00, 0x20, 0x02], [0x00, 0x1B, 0x00, 0x00, 0x01, 0x00],
      [0x80, 0x0E, 0x02], [0x00, 0x2A, 0x01, 0x00, 0x02, 0x00]] : List (List Byte)),
      decode bytes = .error .illegalOperandMode := by decide
/-- Vectors X15 to X17. -/
theorem test_decode_unused_mode : ∀ bytes ∈ ([[0x01, 0x1F], [0x01, 0x01, 0x00, 0x20], [0x30, 0x1F]] :
    List (List Byte)), decode bytes = .error .unusedModeField := by decide
/-- A table word is laid out low byte first and its missing operand bytes are 0 (opcode_table.json). -/
theorem test_decodeTableWord : decodeTableWord 16 0x2500 = some .ret ∧
    decodeTableWord 16 0x1C08 = some (.mov (.lit .plain false 0) (.reg .plain false .al)) ∧
    decodeTableWord 40 0x000040_1C08 = some (.mov (.lit .plain false 64) (.reg .plain false .al)) := by decide
/-- The word placed where the step fetches runs as the next instruction. -/
theorem test_withFetchWord : ends (State.reset.withFetchWord 16 0x3C00) (fun t => t.fl == 0x4000 && t.ip == 2) = true := by
  decide

/-! ## States for the witnesses -/

/-- A state with some bytes at IP 0x0100, a given SP, IE on, and the vectors of 95_test_vectors.md section 6. -/
def stage (bytes : List Byte) (sp : Word) : State :=
  placed bytes (writeWord 0xFFFC 0x0400 (writeWord 0xFFFE 0x0100 { State.reset with sp := sp, fl := 0x4800 }))

/-- `stage` with one boundary of input to come. -/
def staged (b : Boundary) (bytes : List Byte) (sp : Word) : State := { stage bytes sp with inputs := [b] }

/-- An interrupt request with id 7. -/
def request : Boundary := { Boundary.quiet with irq := some 7 }

/-- The cause an instruction raises. -/
def raises (i : Instr) (s : State) (c : Cause) : Bool :=
  match exec i s with
  | .next t => t.fault == some c
  | _ => false

/-- The instruction is refused by the name given. -/
def refuses (i : Instr) (s : State) (r : Refusal) : Bool :=
  match exec i s with
  | .refused q => decide (q = r)
  | _ => false

/-- The step is refused by the name given. -/
def stepRefuses (s : State) (r : Refusal) : Bool :=
  match step s with
  | .refused q => decide (q = r)
  | _ => false

/-- The instruction gives a next state with the property. -/
def leaves (i : Instr) (s : State) (p : State → Bool) : Bool :=
  match exec i s with
  | .next t => p t
  | _ => false

/-- The cause a step raises. -/
def stepRaises (s : State) (c : Cause) : Bool := ends s fun t => t.fault == some c

/-! ## Witnesses: encoding -/

/-- DecodeOfEncodeIsTheInstruction: the longest and the shortest form. -/
theorem witness_decodeOfEncode :
    (Instr.cmp (.lit .indirect true 0xFFFF) (.lit .plain true 0)).wellFormed = true ∧ Instr.ret.wellFormed = true := by
  decide
/-- DecodedBytesBeginWithTheEncoding. -/
theorem witness_decodedBytes : ∃ i, decode [0xE9, 0x28, 0x0B, 0x10, 0x77] = .ok i := ⟨_, rfl⟩
/-- DecodeOperandChecksInOrder, a value for each clause, register literals at the boundary. -/
theorem witness_decodeOperand : (0b0011 : BitVec 4) &&& 0b0011 = 0b0011 ∧
    ((0b0001 : BitVec 4) &&& 0b0011 ≠ 0b0011 ∧ (0b0001 : BitVec 4) ∉ classModes .R) ∧
    ((0b1110 : BitVec 4) ∈ classModes .M ∧ (0b1110 : BitVec 4).getLsbD 3 = true ∧
      0x10 < (0x11 : Byte).toNat ∧ (0x10 : Byte).toNat ≤ 0x10) ∧
    ((0b0100 : BitVec 4) ∈ classModes .I ∧ (0b0100 : BitVec 4).getLsbD 3 = false) := by decide
/-- UnassignedOpcodeRaisesIllegalOpcode: the ends of each unassigned range raise it. -/
theorem witness_unassigned : Undisturbed (stage [0x00, 0x06] 0) ∧
    ∀ b ∈ ([0x06, 0x30, 0x3A, 0x40, 0x4A, 0x4E, 0xFF] : List Byte),
      stepRaises (stage [0x00, b] 0) .illegalOpcode = true := ⟨⟨rfl, rfl, .inl rfl⟩, by decide⟩
/-- UnassignedOpcodeRaisesIllegalOpcode: the opcodes next to the ranges do not. -/
theorem witness_assigned : ∀ b ∈ ([0x05, 0x07, 0x2F, 0x3B, 0x3F, 0x4B, 0x4D] : List Byte),
    ends (stage [0x00, b] 0x8000) (fun t => t.fault == none) = true := by decide
/-- BadModeBitsRaiseInvalidAddressingMode: each clause. -/
theorem witness_badMode : Undisturbed (stage [0x30, 0x01] 0) ∧
    stepRaises (stage [0x30, 0x01] 0) .invalidAddressingMode = true ∧
    stepRaises (stage [0xF1, 0x07] 0) .invalidAddressingMode = true ∧
    stepRaises (stage [0x07, 0x07] 0) .invalidAddressingMode = true ∧
    (rowOf 0x01).isSome = true ∧ (rowOf 0x07).isSome = true ∧
    decodeOperand .V 0 [0, 0, 0, 0] = .ok (.lit .plain false 0, [0, 0]) :=
  ⟨⟨rfl, rfl, .inl rfl⟩, by decide⟩
/-- UnusedModeFieldIsRefused: both clauses, each field. -/
theorem witness_unusedMode : Undisturbed (stage [0x01, 0x1F] 0) ∧
    stepRefuses (stage [0x01, 0x1F] 0) .unusedModeField = true ∧
    stepRefuses (stage [0x30, 0x1F] 0) .unusedModeField = true ∧
    stepRefuses (stage [0x03, 0x01] 0) .unusedModeField = true := ⟨⟨rfl, rfl, .inl rfl⟩, by decide⟩

/-! ## Witnesses: the step -/

/-- StepRunsTheDecodedInstruction: with no request, with a masked one, and with a byte placed twice at the edge of the
address space. -/
theorem witness_stepRuns : (Undisturbed (stage [0x00, 0x1F] 0) ∧
      decode (fetchBytes (takeInput (stage [0x00, 0x1F] 0))) = .ok .nop) ∧
    Undisturbed { staged request [0x00, 0x1F] 0 with fl := 0x4000 } ∧
    (boundaryInput (staged { Boundary.quiet with memory := [(0xFFFF, 1), (0, 5), (0xFFFF, 2)] } [] 0)).memory =
      [(0xFFFF, 1), (0, 5)] ++ (0xFFFF, 2) :: [] :=
  ⟨⟨⟨rfl, rfl, .inl rfl⟩, by decide⟩, ⟨rfl, rfl, .inr (by decide)⟩, rfl⟩
/-- A byte that the memory peer places at this boundary is fetched by this step (20_memory.md R82, R85): NOP becomes
STC (vector F7). -/
theorem test_memory_peer : ends (staged { Boundary.quiet with memory := [(0x101, 0x3C)] } [0x00, 0x1F] 0)
    (fun t => t.ip == 0x102 && t.fl == 0x4800 && readByte 0x101 t == 0x3C && t.inputs == []) = true ∧
    ends { staged { Boundary.quiet with memory := [(0x101, 0x3C)] } [0x00, 0x1F] 0 with fl := 0 }
    (fun t => t.fl == 0x4000) = true := by decide
/-- A device's address may change between two reads of one instruction (20_memory.md R82, D26): CMP [2000], [2000] finds
the two equal where nothing is answered and different where the second read is answered. -/
theorem test_device_between_reads : ends (staged Boundary.quiet [0x11, 0x07, 0x00, 0x20, 0x00, 0x20] 0)
    (fun t => t.fl == 0x2800) = true ∧
    ends (staged { Boundary.quiet with answers := [⟨.value .second, 0x2000, 1⟩] } [0x11, 0x07, 0x00, 0x20, 0x00, 0x20] 0)
    (fun t => t.fl == 0x0800 && readWord 0x2000 t == 0) = true := by decide
/-- BOT as in vector I7, the second of its reads answered (20_memory.md R82, D26). -/
theorem test_device_between_units : ends (writeWord 0x2000 0xABCD { staged { Boundary.quiet with
      answers := [⟨.unit 1, 0x2000, 0x55⟩] } [0x00, 0x04, 0xFF, 0xFF, 0x00, 0x20] 0 with acl := 2 })
    (fun t => t.ioLog == [.write 0xFFFF 0xABCD, .write 0 0xAB55]) = true := by decide
/-- Every other read has its own name: the fetch, a pointer, a modified location, a pop and a vector, each answered. -/
theorem test_device_reads :
    ends (staged { Boundary.quiet with answers := [⟨.fetch, 0x101, 0x3C⟩] } [0x00, 0x1F] 0)
      (fun t => t.fl == 0x4800 && readByte 0x101 t == 0x1F) = true ∧
    ends (writeWord 2 0x300 (staged { Boundary.quiet with answers := [⟨.pointer .first, 0x2000, 2⟩] }
      [0x20, 0x10, 0x00, 0x20] 0)) (fun t => t.ip == 0x300) = true ∧
    ends (staged { Boundary.quiet with answers := [⟨.location, 0x2000, 0x0F⟩] } [0x10, 0x20, 0x00, 0x20] 0)
      (fun t => readWord 0x2000 t == 0xFFF0) = true ∧
    ends (staged { Boundary.quiet with answers := [⟨.stack, 2, 0x34⟩] } [0x00, 0x25] 2) (fun t => t.ip == 0x34) = true ∧
    ends (staged { request with answers := [⟨.vector, 0xFFFC, 0x08⟩] } [] 2) (fun t => t.ip == 0x408) = true ∧
    ends (staged { Boundary.quiet with reset := true, answers := [⟨.vector, 0xFFFF, 0x20⟩] } [] 2)
      (fun t => t.ip == 0x2000) = true := by decide
/-- StepRejectsUndecodableBytes: each error. -/
theorem witness_stepRejects : Undisturbed (stage [0x00, 0x06] 0) ∧
    decode (fetchBytes (takeInput (stage [0x00, 0x06] 0))) = .error .illegalOpcode ∧
    decode (fetchBytes (takeInput (stage [0x30, 0x01] 0))) = .error .invalidAddressingMode ∧
    decode (fetchBytes (takeInput (stage [0x10, 0x0D] 0))) = .error .illegalOperandMode ∧
    decode (fetchBytes (takeInput (stage [0x80, 0x01, 0x11] 0))) = .error .invalidRegister ∧
    decode (fetchBytes (takeInput (stage [0x01, 0x1F] 0))) = .error .unusedModeField :=
  ⟨⟨rfl, rfl, .inl rfl⟩, by decide⟩
/-- FaultStatePersists, with a request standing. -/
theorem witness_faultState : let s := { staged request [0x00, 0x1F] 0 with fault := some .divideByZero }
    s.fault = some .divideByZero ∧ (boundaryInput s).reset = false := ⟨rfl, rfl⟩
/-- ResetClearsFlagsAndLoadsVector, out of a fault state and over a request. -/
theorem witness_reset : ends { staged { request with reset := true } [] 5 with fault := some .stackOverflow }
    (fun t => t.fl == 0 && t.ip == 0x100 && t.fault == none && t.sp == 5 && t.iid == 0) = true := by decide
/-- HardwareInterruptEntry: the hypotheses, and SP at 0, odd, and at both ends of the even values. -/
theorem witness_hardwareInterrupt : let s := staged request [0x00, 0x1F] 0
    (s.fault = none ∧ (boundaryInput s).reset = false ∧ (boundaryInput s).irq = some 7 ∧
      getFlag .ie s.fl = true) ∧
    stepRaises s .stackOverflow = true ∧ stepRefuses (staged request [] 1) .oddStackPointer = true ∧
    ends (staged request [] 2) (fun t => t.sp == 0 && t.iid == 7 && t.ip == 0x400 && readWord 0 t == 0x100) = true ∧
    ends (staged request [] 0xFFFE) (fun t => t.ip == 0x100 && t.fl == 0x4000) = true := by decide
/-- MaskedRequestLeavesNoTrace. -/
theorem witness_masked : getFlag .ie (0xF7FF : Word) = false := by decide
/-- EveryStepKeepsTheInvariant: a state with memory and flags that meets it and has a next state. -/
theorem witness_invariant : StateOk (stage [0x00, 0x24, 0xCD, 0xAB] 0x8000) ∧
    ends (stage [0x00, 0x24, 0xCD, 0xAB] 0x8000) (fun t => t.sp == 0x7FFE) = true :=
  ⟨⟨by decide, by decide⟩, by decide⟩
/-- JumpToItselfChangesNothing: with IE on and no request to come, and with IE off and one. -/
theorem witness_halted : let s := stage [0x00, 0x10, 0x00, 0x01] 0
    (Halted s ∧ s.fault = none ∧ LeftAlone s) ∧
      Halted { staged request [0x00, 0x10, 0x00, 0x01] 0 with fl := 0 } ∧
      LeftAlone (staged request [0x00, 0x10, 0x00, 0x01] 0) :=
  ⟨⟨⟨by decide, by decide, .inr (by decide)⟩, rfl, by unfold LeftAlone; decide⟩,
    ⟨by decide, by decide, .inl (by decide)⟩, by unfold LeftAlone; decide⟩
/-- With IE on and a request to come the run has not ended (70_reset_and_hazards.md R289). -/
theorem test_not_halted : ¬ Halted (staged request [0x00, 0x10, 0x00, 0x01] 0) := by
  rintro ⟨-, -, h | h⟩ <;> revert h <;> decide
/-- InterruptIdWritersAreInterrupts: each of the three ways. -/
theorem witness_iid : ends (staged request [] 2) (fun t => t.iid != 0) = true ∧
    ends (stage [0x00, 0x0E, 0x21, 0x00] 2) (fun t => t.iid == 0x21) = true ∧
    ends { stage [0x00, 0x0F] 2 with iid := 9 } (fun t => t.iid == 0) = true := by decide
/-- FlagWritersAreThoseListed: an instruction that writes flags has a next state. -/
theorem witness_flagWriters : ∃ t, exec (.add (.lit .plain false 1)) State.reset = .next t := ⟨_, rfl⟩
/-- ExceptionsArePrecise and ExecutionCausesAreTwo: each way. -/
theorem witness_exceptions : (Instr.div (.lit .plain false 0)).wellFormed = true ∧ (stage [] 0).fault = none ∧
    raises (.div (.lit .plain false 0)) (stage [] 2) .divideByZero = true ∧
    raises (.idiv (.reg .plain false .al)) (stage [] 2) .divideByZero = true ∧
    raises (.push (.lit .plain false 1)) (stage [] 0) .stackOverflow = true ∧
    raises (.call (.lit .plain false 1)) (stage [] 0) .stackOverflow = true ∧
    raises (.int (.lit .plain false 1)) (stage [] 0) .stackOverflow = true := by decide
/-- StoredWordReadsBack: an access without an answer, and one answered twice, at the end of the address space. -/
theorem witness_load : let other : MemAnswer := ⟨.fetch, 0xFFFF, 1⟩
    let s : State := { State.reset with memAnswers := [other, ⟨.stack, 0xFFFF, 2⟩, ⟨.stack, 0xFFFF, 3⟩] }
    (∀ q ∈ s.memAnswers, q.access = .vector → q.address ≠ 0xFFFF) ∧
      s.memAnswers = [other] ++ ⟨.stack, 0xFFFF, 2⟩ :: [⟨.stack, 0xFFFF, 3⟩] ∧
      (∀ q ∈ [other], q.access = .stack → q.address ≠ 0xFFFF) ∧ loadByte .stack 0xFFFF s = 2 := by decide
/-- RegisterHalvesShareOneWord. -/
theorem witness_halves : (Reg.dh, Reg.dl, Reg.dcl) ∈ [(Reg.ah, Reg.al, Reg.acl), (.bh, .bl, .bcl), (.ch, .cl, .ccl),
    (.dh, .dl, .dcl)] := by decide

/-! ## Witnesses: instructions -/

/-- DivDividesUnsigned, IdivDividesTowardZero: each clause, the overflowing quotient among them. -/
theorem witness_division : let s : State := { State.reset with acl := 0x8000, bcl := 0xFFFF }
    operandValue .first 0 (.lit .plain false 0) s = 0 ∧ operandValue .first 0 (.reg .plain false .bcl) s ≠ 0 ∧
      (s.acl = 0x8000 ∧ operandValue .first 0 (.reg .plain false .bcl) s = 0xFFFF) ∧
      ¬ (s.acl = 0x8000 ∧ operandValue .first 0 (.reg .plain false .bl) s = 0xFFFF) := by decide
/-- WritesLocation's clauses, for INC, DEC, LD, MOV, NEG, NOT, the shifts and POP: FL, IID and a location written. -/
theorem witness_writesLocation : operandLocation .first 0 (.reg .plain false .fl) State.reset = some (.reg .fl) ∧
    operandLocation .first 0 (.reg .plain true .iid) State.reset = some (.reg .iid) ∧
    operandLocation .first 0 (.reg .plain false .al) State.reset = some (.reg .al) ∧
    operandLocation .first 0 (.lit .direct false 0xFFFF) State.reset = some (.mem 0xFFFF) := by decide
/-- The same, as the instructions run them: refused, and done. -/
theorem witness_writesLocation_runs :
    (∀ r ∈ [Reg.fl, .iid], ∀ i ∈ [Instr.inc (.reg .plain false r), .dec (.reg .plain false r),
        .ld (.reg .plain false r) (.lit .plain false 1), .mov (.lit .plain false 1) (.reg .plain false r),
        .neg (.reg .plain false r), .not (.reg .plain false r), .sl (.reg .plain false r) (.lit .plain false 1),
        .sr (.reg .plain false r) (.lit .plain false 1), .rol (.reg .plain false r) (.lit .plain false 1),
        .ror (.reg .plain false r) (.lit .plain false 1), .pop (.reg .plain false r)],
      refuses i (stage [] 1) .writeToFlOrIid = true) ∧
    ends (stage [0x80, 0x0D, 0x0D] 0) (fun t => t.ip == 0x101) = true := by decide
/-- MovMovesToARegister. -/
theorem witness_mov : (Operand.lit .plain true 64).fits .VI = true ∧ (Operand.reg .plain false .iid).fits .VI = true := by
  decide
/-- StStoresAWord. -/
theorem witness_st : operandLocation .second 0 (.reg .indirect true .bcl) State.reset = some (.mem 0) := by decide
/-- PushesAndGoesTo's clauses, for PUSH and CALL: SP at 0, odd at both ends, and the smallest even one. -/
theorem witness_push : ∀ i ∈ [Instr.push (.reg .plain false .sp), .call (.reg .plain false .sp)],
    raises i (stage [] 0) .stackOverflow = true ∧ refuses i (stage [] 1) .oddStackPointer = true ∧
    refuses i (stage [] 0xFFFF) .oddStackPointer = true ∧
    leaves i (stage [] 2) (fun t => t.sp == 0 && t.fault == none) = true := by decide
/-- PopWritesThenMovesSp: an odd SP, the largest even one, and the location SP itself. -/
theorem witness_pop : refuses (.pop (.reg .plain false .al)) (stage [] 1) .oddStackPointer = true ∧
    leaves (.pop (.reg .plain false .al)) (stage [] 0xFFFE) (fun t => t.sp == 0) = true ∧
    leaves (.pop (.reg .plain false .sp)) (stage [] 0xFFFE) (fun t => t.sp == 0x102) = true := by
  decide
/-- JumpsAfterCompareReadTheOrder: CMP and SUB, with the values at a sign boundary. -/
theorem witness_compare : let s : State := { State.reset with acl := 0x8000 }
    let a : Operand := .lit .plain false 1
    let b : Operand := .reg .plain false .acl
    (Instr.cmp a b = .cmp a b ∧ (1 : Word) = operandValue .first (nextIp [a, b] s) a s ∧
      (0x8000 : Word) = operandValue .second (nextIp [a, b] s) b s) ∧
    (Instr.sub a = .sub a ∧ (1 : Word) = operandValue .first (nextIp [a] s) a s ∧ (0x8000 : Word) = s.acl) := by decide
/-- RetPopsIp, IretReturnsAndSetsIe, ReturnsWithOddSpAreRefused: SP at the ends of the even and the odd values. -/
theorem witness_returns : (stage [] 0).sp.getLsbD 0 = false ∧ (stage [] 0xFFFE).sp.getLsbD 0 = false ∧
    (stage [] 1).sp.getLsbD 0 = true ∧ (stage [] 0xFFFF).sp.getLsbD 0 = true := by decide
/-- ReturnAfterCallComesBack: the smallest SP, and answers that leave the pushed word alone. -/
theorem witness_returnAfterCall : (stage [] 2).sp ≠ 0 ∧ (stage [] 2).sp.getLsbD 0 = false ∧
    ∀ q ∈ ([⟨.stack, 2, 9⟩, ⟨.value .first, 0, 9⟩] : List MemAnswer),
      q.access = .stack → q.address ≠ (stage [] 2).sp - 2 ∧ q.address ≠ (stage [] 2).sp - 1 := by decide
/-- FlagInstructionsWriteOneBit. -/
theorem witness_flagInstruction : (Instr.sti, Flag.ie, 11, true) ∈ [(Instr.clo, Flag.of, 15, false), (.clc, .cf, 14, false),
    (.clz, .zf, 13, false), (.cln, .nf, 12, false), (.cli, .ie, 11, false), (.sto, .of, 15, true),
    (.stc, .cf, 14, true), (.stz, .zf, 13, true), (.stn, .nf, 12, true), (.sti, .ie, 11, true)] := by decide
/-- IntEntersTheInterrupt: each clause. -/
theorem witness_int : getFlag .ie State.reset.fl = false ∧
    (getFlag .ie (stage [] 0).fl = true ∧ (stage [] 0).sp = 0) ∧
    (getFlag .ie (stage [] 1).fl = true ∧ (stage [] 1).sp.getLsbD 0 = true) ∧
    (getFlag .ie (stage [] 2).fl = true ∧ (stage [] 2).sp ≠ 0 ∧ (stage [] 2).sp.getLsbD 0 = false) := by decide
/-- InStoresOneUnit: an answer scripted. -/
theorem witness_in : ({ State.reset with ioAnswers := [0xBEEF] } : State).ioAnswers = 0xBEEF :: [] := rfl
/-- BinReadsAlUnits: no unit, and the most units with as many answers. -/
theorem witness_bin : ({ State.reset with acl := 0xFF00 } : State).acl.toNat % 256 = 0 ∧
    ({ State.reset with acl := 0x00FF, ioAnswers := List.replicate 255 5 } : State).acl.toNat % 256 ≤
      (List.replicate 255 (5 : Word)).length := ⟨by decide, by rw [List.length_replicate]; decide⟩

end Sys2Proof.Tests
end

/-! Proofs about the state (spec 10_state.md): the halves of a register, the state after reset, and what every step
leaves of the memory's form, of FL and of IID. What a step leaves rests on one fact, proved once for each shared
operation and then for each instruction: it is `Confined` to the flags and the interrupt ids it may write. -/

namespace Sys2Proof.Machine

/-! ## Flags words -/

/-- Every bit of a flags word but those of the listed flags is the same. -/
def FlagBitsKept (fs : List Flag) (old new : Word) : Prop :=
  ∀ i : Nat, (∀ f ∈ fs, i ≠ f.bit) → new.getLsbD i = old.getLsbD i

theorem flagsSameExcept_iff (fs : List Flag) (s t : State) : FlagsSameExcept fs s t ↔ FlagBitsKept fs s.fl t.fl :=
  Iff.rfl

theorem FlagBitsKept.refl (fs : List Flag) (fl : Word) : FlagBitsKept fs fl fl := fun _ _ => rfl

theorem FlagBitsKept.putFlag {fs : List Flag} {old new : Word} (h : FlagBitsKept fs old new) {f : Flag}
    (hf : f ∈ fs) (b : Bool) : FlagBitsKept fs old (putFlag f b new) := by
  intro i hi
  rw [getLsbD_putFlag, if_neg (hi f hf)]
  exact h i hi

/-- CF, OF, NF and ZF are the bits that ADC, ADD, SUB and CMP write (10_state.md R38). -/
theorem putStatus_kept (r : Word) (cf of : Bool) (fl : Word) :
    FlagBitsKept statusFlags fl (putStatus r cf of fl) :=
  ((((FlagBitsKept.refl _ fl).putFlag (by decide) _).putFlag (by decide) _).putFlag (by decide) _).putFlag
    (by decide) _

theorem putCarryOverflow_kept (b : Bool) (fl : Word) : FlagBitsKept [.of, .cf] fl (putCarryOverflow b fl) :=
  ((FlagBitsKept.refl _ fl).putFlag (by decide) _).putFlag (by decide) _

theorem andFlags_kept (r fl : Word) : FlagBitsKept [.of, .cf, .zf] fl (andFlags r fl) :=
  (((FlagBitsKept.refl _ fl).putFlag (by decide) _).putFlag (by decide) _).putFlag (by decide) _

/-- RT and the reserved bits of FL are 0 when its low eleven bits are (10_state.md R27, R29). -/
theorem reservedFlags_eq_zero_iff (fl : Word) : fl &&& 0x07FF = 0 ↔ ∀ i < 11, fl.getLsbD i = false := by
  have mask_bit : ∀ i < 16, (0x07FF : Word).getLsbD i = decide (i < 11) := by decide
  constructor
  · intro h i hi
    have hbit : (fl &&& 0x07FF).getLsbD i = false := by rw [h]; simp
    rw [BitVec.getLsbD_and, mask_bit i (by omega)] at hbit
    simpa [hi] using hbit
  · intro h
    apply BitVec.eq_of_getLsbD_eq
    intro i hi
    rw [BitVec.getLsbD_and, mask_bit i hi]
    by_cases hlow : i < 11
    · simp [h i hlow]
    · simp [hlow]

/-- Every flag but RT lies above the reserved bits (10_state.md R27). -/
theorem Flag.le_bit_of_ne_rt {f : Flag} (h : f ≠ .rt) : 11 ≤ f.bit := by
  cases f <;> simp [Flag.bit] at h ⊢

theorem FlagBitsKept.reservedFlags {fs : List Flag} {old new : Word} (h : FlagBitsKept fs old new)
    (hrt : Flag.rt ∉ fs) (hold : old &&& 0x07FF = 0) : new &&& 0x07FF = 0 := by
  rw [reservedFlags_eq_zero_iff] at hold ⊢
  intro i hi
  have not_written : ∀ f ∈ fs, i ≠ f.bit := by
    intro f hf
    have := Flag.le_bit_of_ne_rt (f := f) fun e => hrt (e ▸ hf)
    omega
  rw [h i not_written, hold i hi]

/-! ## What an operation is confined to -/

/-- Between `s` and `t` the memory keeps its canonical form, FL changes at most in the flags `fs`, and IID only to a value
that `ids` allows. -/
structure Confined (fs : List Flag) (ids : Word → Prop) (s t : State) : Prop where
  wf : Memory.wf s.mem = true → Memory.wf t.mem = true
  flags : FlagBitsKept fs s.fl t.fl
  iid : t.iid = s.iid ∨ ids t.iid

/-- A computation started in `s` is confined in every state it can answer. -/
def Confines (fs : List Flag) (ids : Word → Prop) (s : State) (r : Except Halt State) : Prop :=
  ∀ t, r = .ok t → Confined fs ids s t

section Confinement

variable {fs : List Flag} {ids : Word → Prop} {s t u : State}

theorem Confined.refl (s : State) : Confined fs ids s s := ⟨id, .refl fs s.fl, .inl rfl⟩

/-- Confinement depends on memory, FL and IID alone. -/
theorem Confined.congr (h : Confined fs ids s t) (hmem : u.mem = t.mem) (hfl : u.fl = t.fl) (hiid : u.iid = t.iid) :
    Confined fs ids s u :=
  ⟨by rw [hmem]; exact h.wf, by rw [hfl]; exact h.flags, by rw [hiid]; exact h.iid⟩

theorem Confined.setIp (h : Confined fs ids s t) (v : Word) : Confined fs ids s (t.setIp v) := h.congr rfl rfl rfl

theorem Confined.setSp (h : Confined fs ids s t) (v : Word) : Confined fs ids s (t.setSp v) := h.congr rfl rfl rfl

theorem Confined.setFault (h : Confined fs ids s t) (c : Option Cause) : Confined fs ids s (t.setFault c) :=
  h.congr rfl rfl rfl

theorem Confined.putFlag (h : Confined fs ids s t) {f : Flag} (hf : f ∈ fs) (b : Bool) :
    Confined fs ids s (t.setFl (putFlag f b t.fl)) := ⟨h.wf, h.flags.putFlag hf b, h.iid⟩

theorem Confined.setIid (h : Confined fs ids s t) {v : Word} (hv : ids v) : Confined fs ids s (t.setIid v) :=
  ⟨h.wf, h.flags, .inr hv⟩

theorem Confined.writeWord (h : Confined fs ids s t) (a v : Word) : Confined fs ids s (writeWord a v t) :=
  ⟨fun hs => writeWord_wf (h.wf hs) a v, h.flags, h.iid⟩

theorem Confined.retireAlu (h : Confined fs ids s t) (named : List Flag) (r : Word) :
    Confined fs ids s (retireAlu named r t) := by
  rw [retireAlu_eq]
  exact h.congr rfl rfl rfl

/-! ## Computations inside a step -/

theorem confines_ok (h : Confined fs ids s t) : Confines fs ids s (.ok t) := by
  rintro _ ⟨⟩
  exact h

theorem confines_error (e : Halt) : Confines fs ids s (.error e) := nofun

theorem Confines.map {r : Except Halt State} (hr : Confines fs ids s r) {f : State → State}
    (hf : ∀ t, Confined fs ids s t → Confined fs ids s (f t)) : Confines fs ids s (r.map f) := by
  match r with
  | .ok t => exact confines_ok (hf t (hr t rfl))
  | .error e => exact confines_error e

theorem Confines.bind {r : Except Halt State} (hr : Confines fs ids s r) {f : State → Except Halt State}
    (hf : ∀ t, Confined fs ids s t → Confines fs ids s (f t)) : Confines fs ids s (r.bind f) := by
  match r with
  | .ok t => exact hf t (hr t rfl)
  | .error e => exact confines_error e

theorem raise_confined {c : Cause} (h : raise c s = .next t) : Confined fs ids s t := by
  cases h
  exact (Confined.refl s).setFault _

theorem conclude_confined {r : Except Halt State} (hr : Confines fs ids s r) (h : conclude s r = .next t) :
    Confined fs ids s t := by
  obtain hok | ⟨c, -, rfl⟩ := conclude_next h
  · exact hr t hok
  · exact (Confined.refl s).setFault _

/-- No register write touches memory, FL or IID (10_state.md R33). -/
theorem writeReg_confines (h : Confined fs ids s t) (r : Reg) (v : Word) : Confines fs ids s (writeReg r v t) := by
  cases r
  case fl | iid => exact confines_error _
  all_goals exact confines_ok (h.congr rfl rfl rfl)

theorem writeLocation_confines (h : Confined fs ids s t) (l : Location) (v : Word) :
    Confines fs ids s (writeLocation l v t) := by
  cases l with
  | reg r => exact writeReg_confines h r v
  | mem a => exact confines_ok (h.writeWord a v)

theorem push_confines (h : Confined fs ids s t) (v : Word) : Confines fs ids s (push v t) := by
  obtain ⟨-, hp⟩ | ⟨-, hp⟩ | ⟨-, -, hp⟩ := push_cases v t <;> rw [hp]
  · exact confines_error _
  · exact confines_error _
  · exact confines_ok ((h.setSp _).writeWord _ v)

/-- Interrupt entry writes IE and gives IID the id (60_exceptions.md R254). -/
theorem enterInterrupt_confines {id : Word} (hie : Flag.ie ∈ fs) (hid : ids id) (ret : Word) (s : State) :
    Confines fs ids s (enterInterrupt id ret s) :=
  (push_confines ((Confined.refl s).setIid hid) ret).map fun _ ht => (ht.setIp _).putFlag hie false

/-- The return from an interrupt writes IE and clears IID (45_flags_system.md R232). -/
theorem returnFromInterrupt_confines (hie : Flag.ie ∈ fs) (hid : ids 0) (s : State) :
    Confines fs ids s (returnFromInterrupt s) := by
  cases hsp : s.sp.getLsbD 0
  · rw [returnFromInterrupt_even hsp]
    exact confines_ok (((((Confined.refl s).setSp _).setIp _).putFlag hie true).setIid hid)
  · rw [returnFromInterrupt_odd hsp]
    exact confines_error _

/-! ## Shapes of meanings -/

theorem accumulate_confined {named : List Flag} {npc : Word} {p : Word × Word}
    (h : accumulate named npc p s = .next t) (hp : FlagBitsKept fs s.fl p.2) : Confined fs ids s t := by
  cases h
  have hu : Confined fs ids s (((s.setAcl p.1).setFl p.2).setIp npc) := ⟨id, hp, .inl rfl⟩
  exact hu.retireAlu named p.1

theorem compareOnly_confined {named : List Flag} {npc : Word} {p : Word × Word}
    (h : compareOnly named npc p s = .next t) (hp : FlagBitsKept fs s.fl p.2) : Confined fs ids s t := by
  cases h
  have hu : Confined fs ids s ((s.setFl p.2).setIp npc) := ⟨id, hp, .inl rfl⟩
  exact hu.retireAlu named p.1

theorem modifyLocation_confined {npc : Word} {op : Operand} {f : Nat → Word → Word}
    (h : modifyLocation npc op f s = .next t) : Confined fs ids s t := by
  unfold modifyLocation at h
  split at h
  · exact raise_confined h
  · exact conclude_confined
      ((writeLocation_confines ((Confined.refl s).setIp npc) _ _).map fun _ hu => hu.retireAlu _ _) h

theorem modifyRegister_confined {npc : Word} {op : Operand} {f : Nat → Word → Word}
    (h : modifyRegister npc op f s = .next t) : Confined fs ids s t := by
  unfold modifyRegister at h
  split at h
  · exact modifyLocation_confined h
  · exact raise_confined h

theorem moveToRegister_confined {npc : Word} {dst : Operand} {v : Word} (h : moveToRegister npc dst v s = .next t) :
    Confined fs ids s t := by
  unfold moveToRegister at h
  split at h
  · exact conclude_confined (writeReg_confines ((Confined.refl s).setIp npc) _ v) h
  · exact raise_confined h

theorem jumpIf_confined {cond : Bool} {op : Operand} (h : jumpIf cond op s = .next t) : Confined fs ids s t := by
  cases h
  exact (Confined.refl s).setIp _

theorem writeFlag_confined {f : Flag} {b : Bool} (h : writeFlag f b s = .next t) (hf : f ∈ fs) :
    Confined fs ids s t := by
  cases h
  exact ((Confined.refl s).putFlag hf b).setIp _

theorem receive_confined {count : Nat} {a b : Operand} (h : receive count a b s = .next t) : Confined fs ids s t := by
  obtain ⟨u, hu, -, hwf, honly⟩ := receiveUnits_frame count (operandValue .first (nextIp [a, b] s) a s)
    (operandValue .second (nextIp [a, b] s) b s) (s.setIp (nextIp [a, b] s))
  simp only [receive, unitTarget_eq, hu, conclude_ok] at h
  cases h
  have hfl : t.fl = s.fl := honly .fl (by decide)
  have hiid : t.iid = s.iid := honly .iid (by decide)
  exact ⟨hwf, hfl ▸ .refl fs s.fl, .inl hiid⟩

/-! ## Instructions with a shape of their own -/

theorem execDiv_confined {a : Operand} (h : execDiv a s = .next t) : Confined fs ids s t := by
  simp only [execDiv] at h
  split at h
  · exact raise_confined h
  · exact accumulate_confined h (.refl fs s.fl)

theorem execIdiv_confined {a : Operand} (h : execIdiv a s = .next t) : Confined fs ids s t := by
  simp only [execIdiv] at h
  split at h
  · exact raise_confined h
  · exact accumulate_confined h (.refl fs s.fl)

theorem execCall_confined {a : Operand} (h : execCall a s = .next t) : Confined fs ids s t :=
  conclude_confined ((push_confines (.refl s) _).map fun _ hu => hu.setIp _) h

theorem execPush_confined {a : Operand} (h : execPush a s = .next t) : Confined fs ids s t :=
  conclude_confined ((push_confines (.refl s) _).map fun _ hu => hu.setIp _) h

theorem execRet_confined (h : execRet s = .next t) : Confined fs ids s t := by
  refine conclude_confined ?_ h
  cases hsp : s.sp.getLsbD 0
  · rw [pop_even hsp]
    exact confines_ok (((Confined.refl s).setSp _).setIp _)
  · rw [pop_odd hsp]
    exact confines_error _

theorem execPop_confined {a : Operand} (h : execPop a s = .next t) : Confined fs ids s t := by
  simp only [execPop] at h
  split at h
  · exact raise_confined h
  · refine conclude_confined ((writeLocation_confines ((Confined.refl s).setIp _) _ _).bind fun u hu => ?_) h
    cases hsp : s.sp.getLsbD 0
    · rw [checkEvenSp_even hsp]
      exact confines_ok (hu.setSp _)
    · rw [checkEvenSp_odd hsp]
      exact confines_error _

theorem execMov_confined {a b : Operand} (h : execMov a b s = .next t) : Confined fs ids s t := by
  simp only [execMov] at h
  split at h
  · exact moveToRegister_confined h
  · exact raise_confined h

theorem execSt_confined {a b : Operand} (h : execSt a b s = .next t) : Confined fs ids s t := by
  simp only [execSt] at h
  split at h
  · cases h
    exact ((Confined.refl s).writeWord _ _).setIp _
  · exact raise_confined h

theorem execNop_confined (h : execNop s = .next t) : Confined fs ids s t := by
  cases h
  exact (Confined.refl s).setIp _

theorem execOut_confined {a b : Operand} (h : execOut a b s = .next t) : Confined fs ids s t := by
  cases h
  exact (Confined.refl s).congr rfl rfl rfl

theorem execBot_confined {a b : Operand} (h : execBot a b s = .next t) : Confined fs ids s t := by
  simp only [execBot] at h
  rw [sendUnits_eq] at h
  cases h
  exact (Confined.refl s).congr rfl rfl rfl

/-- Class I is the immediates (30_encoding.md R102). -/
theorem fits_I_iff (a : Operand) : a.fits .I = true ↔ ∃ rel v, a = .lit .plain rel v := by
  cases a <;> simp [Operand.fits, OperandClass.accepts]

/-- An immediate is its literal, whatever its relative bit (30_encoding.md R96, R104). -/
@[simp] theorem operandValue_immediate (i : OperandIndex) (npc : Word) (rel : Bool) (v : Word) (s : State) :
    operandValue i npc (.lit .plain rel v) s = v := by
  simp [operandValue, operandForm, operandBase, isRelative, operandRaw]

/-- INT writes IE and IID only when it is taken, and IID then gets the literal (45_flags_system.md R231). -/
theorem execInt_confined {a : Operand} (hie : Flag.ie ∈ fs)
    (hids : ∀ rel v, a = .lit .plain rel v → getFlag .ie s.fl = true → ids v) (h : execInt a s = .next t) :
    Confined fs ids s t := by
  simp only [execInt] at h
  split at h
  next hfits =>
    obtain ⟨rel, v, rfl⟩ := (fits_I_iff a).mp hfits
    split at h
    next hset =>
      rw [operandValue_immediate] at h
      exact conclude_confined (enterInterrupt_confines hie (hids rel v rfl hset) _ s) h
    next =>
      cases h
      exact (Confined.refl s).setIp _
  next => exact raise_confined h

end Confinement

/-! ## Every instruction -/

/-- The values an instruction may give IID: a taken INT its literal, IRET 0 (10_state.md R37). -/
def WritesIid (i : Instr) (s : State) (v : Word) : Prop :=
  (∃ rel, i = .int (.lit .plain rel v) ∧ getFlag .ie s.fl = true) ∨ (i = .iret ∧ v = 0)

/-- Every instruction keeps the memory's form and writes no flag but those of 10_state.md R38 and no interrupt id but
that of R37. -/
theorem exec_confined {i : Instr} {s t : State} (h : exec i s = .next t) :
    Confined (flagsWrittenBy i) (WritesIid i s) s t := by
  cases i with
  | adc a => exact accumulate_confined h (putStatus_kept _ _ _ _)
  | add a => exact accumulate_confined h (putStatus_kept _ _ _ _)
  | sub a => exact accumulate_confined h (putStatus_kept _ _ _ _)
  | cmp a b => exact compareOnly_confined h (putStatus_kept _ _ _ _)
  | mul a => exact accumulate_confined h (putCarryOverflow_kept _ _)
  | imul a => exact accumulate_confined h (putCarryOverflow_kept _ _)
  | div a => exact execDiv_confined h
  | idiv a => exact execIdiv_confined h
  | inc a => exact modifyRegister_confined h
  | dec a => exact modifyRegister_confined h
  | neg a => exact modifyLocation_confined h
  | and a => exact accumulate_confined h (andFlags_kept _ _)
  | test a => exact compareOnly_confined h (andFlags_kept _ _)
  | or a => exact accumulate_confined h (.refl _ _)
  | xor a => exact accumulate_confined h (.refl _ _)
  | not a => exact modifyLocation_confined h
  | sl a b =>
    simp only [exec, execSl] at h
    exact modifyLocation_confined h
  | sr a b =>
    simp only [exec, execSr] at h
    exact modifyLocation_confined h
  | rol a b =>
    simp only [exec, execRol] at h
    exact modifyLocation_confined h
  | ror a b =>
    simp only [exec, execRor] at h
    exact modifyLocation_confined h
  | ld a b => exact moveToRegister_confined h
  | mov a b => exact execMov_confined h
  | st a b => exact execSt_confined h
  | push a => exact execPush_confined h
  | pop a => exact execPop_confined h
  | jmp a | jz a | jg a | jge a | jl a | jle a | jc a | js a | jnz a | jnc a | jns a => exact jumpIf_confined h
  | call a => exact execCall_confined h
  | ret => exact execRet_confined h
  | nop => exact execNop_confined h
  | inp a b => exact receive_confined (count := 1) h
  | bin a b => exact receive_confined h
  | out a b => exact execOut_confined h
  | bot a b => exact execBot_confined h
  | clo | clc | clz | cln | cli | sto | stc | stz | stn | sti => exact writeFlag_confined h (List.mem_singleton_self _)
  | int a =>
    exact execInt_confined (List.mem_singleton_self _) (fun rel v ha hie => .inl ⟨rel, ha ▸ rfl, hie⟩) h
  | iret => exact conclude_confined (returnFromInterrupt_confines (List.mem_singleton_self _) (.inr ⟨rfl, rfl⟩) s) h

/-- RT is written by no instruction (10_state.md R29, R38). -/
theorem rt_notMem_flagsWrittenBy (i : Instr) : Flag.rt ∉ flagsWrittenBy i := by
  cases i <;> simp [flagsWrittenBy]

/-! ## Every step -/

/-- What fails to decode answers a next state only by an exception. -/
theorem rejectBytes_next {e : DecodeError} {s t : State} (h : rejectBytes e s = .next t) :
    ∃ c, t = s.setFault (some c) := by
  cases e
  case unusedModeField | truncated => cases h
  all_goals cases h; exact ⟨_, rfl⟩

/-- All that running the instruction at IP can be: the decoded instruction executed, or an exception of the decoder. -/
theorem runInstruction_cases {s t : State} (h : runInstruction s = .next t) :
    (∃ i, decode (fetchBytes s) = .ok i ∧ exec i s = .next t) ∨ ∃ c, t = s.setFault (some c) := by
  unfold runInstruction at h
  split at h
  next i hi => exact .inl ⟨i, hi, h⟩
  next => exact .inr (rejectBytes_next h)

theorem acceptInterrupt_confined {id : Byte} {s t : State} (h : acceptInterrupt id s = .next t) :
    Confined [.ie] (· = ofHiLo 0 id) s t :=
  conclude_confined (enterInterrupt_confines (ids := (· = ofHiLo 0 id)) (List.mem_singleton_self _) rfl _ s) h

theorem Confined.stateOk {fs : List Flag} {ids : Word → Prop} {s t : State} (h : Confined fs ids s t)
    (hrt : Flag.rt ∉ fs) (hs : StateOk s) : StateOk t := by
  obtain ⟨hwf, hfl⟩ := hs
  exact ⟨h.wf hwf, h.flags.reservedFlags hrt hfl⟩

theorem takeInput_stateOk {s : State} (h : StateOk s) : StateOk (takeInput s) := by
  obtain ⟨hwf, hfl⟩ := h
  exact ⟨takeInput_wf hwf, by rwa [takeInput_fl]⟩

theorem resetSequence_stateOk {s : State} (h : StateOk s) : StateOk (resetSequence s) := by
  obtain ⟨hwf, -⟩ := h
  rw [resetSequence_eq]
  exact ⟨hwf, BitVec.zero_and⟩

theorem setFault_stateOk {s : State} (h : StateOk s) (c : Option Cause) : StateOk (s.setFault c) := h

theorem runInstruction_stateOk {s t : State} (hs : StateOk s) (h : runInstruction s = .next t) : StateOk t := by
  obtain ⟨i, -, hi⟩ | ⟨c, rfl⟩ := runInstruction_cases h
  · exact (exec_confined hi).stateOk (rt_notMem_flagsWrittenBy i) hs
  · exact setFault_stateOk hs _

/-- Settles O14: each of the four kinds of step is confined to flags other than RT, or clears FL. -/
theorem everyStepKeepsTheInvariant : Obligations.EveryStepKeepsTheInvariant := by
  intro s t hs h
  have hin := takeInput_stateOk hs
  obtain ⟨-, rfl⟩ | ⟨-, -, rfl⟩ | ⟨-, -, id, -, -, h⟩ | ⟨-, -, h⟩ := step_cases h
  · exact resetSequence_stateOk hin
  · exact hin
  · exact (acceptInterrupt_confined h).stateOk (by decide) hin
  · exact runInstruction_stateOk hin h

/-- Settles O15: nothing is listed in memory and FL is 0. -/
theorem resetStateMeetsTheInvariant : Obligations.ResetStateMeetsTheInvariant :=
  ⟨(Memory.wf_iff []).mpr ⟨.nil, nofun⟩, BitVec.zero_and⟩

/-- Settles O19: the part of `exec_confined` about FL. -/
theorem flagWritersAreThoseListed : Obligations.FlagWritersAreThoseListed := by
  intro i s t h
  rw [flagsSameExcept_iff]
  exact (exec_confined h).flags

/-- A byte zero-extended is the word with that low byte. -/
theorem ofHiLo_zero_eq_setWidth (b : Byte) : ofHiLo 0 b = b.setWidth 16 := by
  apply BitVec.eq_of_toNat_eq
  rw [toNat_ofHiLo_zero, BitVec.toNat_setWidth_of_le (by decide)]

/-- Settles O18: reset and the fault state keep IID, and the other two kinds of step change it as `Confined` says. -/
theorem interruptIdWritersAreInterrupts : Obligations.InterruptIdWritersAreInterrupts := by
  intro s t h hne
  rw [← takeInput_iid s] at hne
  obtain ⟨-, rfl⟩ | ⟨-, -, rfl⟩ | ⟨hr, hf, id, hirq, hie, h⟩ | ⟨hr, hf, h⟩ := step_cases h
  · exact absurd (by rw [resetSequence_eq]; rfl) hne
  · exact absurd rfl hne
  · have hid := (acceptInterrupt_confined h).iid.resolve_left hne
    exact ⟨hf, hr, .inl ⟨id, hirq, hie, by rw [hid, ofHiLo_zero_eq_setWidth]⟩⟩
  · obtain ⟨i, hi, h⟩ | ⟨c, rfl⟩ := runInstruction_cases h
    · obtain ⟨rel, rfl, hie⟩ | ⟨rfl, h0⟩ := (exec_confined h).iid.resolve_left hne
      · exact ⟨hf, hr, .inr (.inl ⟨rel, _, hi, by rwa [takeInput_fl] at hie, rfl⟩)⟩
      · exact ⟨hf, hr, .inr (.inr ⟨hi, h0⟩)⟩
    · exact absurd rfl hne

/-- Settles O16, by evaluation: the word at the reset vector of the empty memory is 0. -/
theorem resetStateValues : Obligations.ResetStateValues := ⟨rfl, by decide, rfl⟩

/-! ## The halves of a general register -/

theorem toNat_hiByte (w : Word) : (hiByte w).toNat = w.toNat / 256 := by
  have := w.isLt
  simp only [hiByte, BitVec.extractLsb'_toNat, Nat.shiftRight_eq_div_pow]
  omega

theorem toNat_loByte (w : Word) : (loByte w).toNat = w.toNat % 256 := by
  simp [loByte]

/-- A writable register holds what was written, at its width, and its other half is as it was (10_state.md R21, R31). -/
theorem writeReg_reads {r : Reg} (hfl : r ≠ .fl) (hiid : r ≠ .iid) (v : Word) (s : State) :
    ∃ t, writeReg r v s = .ok t ∧ readReg r t = lowBits (regWidth r) v ∧
      ∀ h, otherHalf r = some h → readReg h t = readReg h s := by
  obtain ⟨t, ht⟩ := writeReg_ok hfl hiid v s
  obtain ⟨hread, hother, -⟩ := writeReg_after ht
  exact ⟨t, ht, hread, hother⟩

/-- A byte register is written with the low byte of the value (10_state.md R31). -/
theorem writeReg_half {r h : Reg} (hr : otherHalf r = some h) (v : Word) (s : State) :
    ∃ t, writeReg r v s = .ok t ∧ (readReg r t).toNat = v.toNat % 256 ∧ readReg h t = readReg h s := by
  have hwidth : regWidth r = 8 ∧ r ≠ .fl ∧ r ≠ .iid := by cases r <;> simp [otherHalf] at hr <;> decide
  obtain ⟨h8, hfl, hiid⟩ := hwidth
  obtain ⟨t, ht, hread, hother⟩ := writeReg_reads hfl hiid v s
  refine ⟨t, ht, ?_, hother h hr⟩
  rw [hread, h8, lowBits_8, toNat_ofHiLo_zero, toNat_loByte]

/-- `h` and `l` are the high and the low half of the word register `w` (10_state.md R21). -/
structure HalvesOf (h l w : Reg) : Prop where
  high : otherHalf h = some l
  low : otherHalf l = some h
  width : regWidth w = 16
  writable : w ≠ .fl ∧ w ≠ .iid
  readHigh : ∀ s, readReg h s = ofHiLo 0 (hiByte (readReg w s))
  readLow : ∀ s, readReg l s = ofHiLo 0 (loByte (readReg w s))

theorem halvesOf_of_mem {h l w : Reg}
    (hmem : (h, l, w) ∈ [(Reg.ah, Reg.al, Reg.acl), (.bh, .bl, .bcl), (.ch, .cl, .ccl), (.dh, .dl, .dcl)]) :
    HalvesOf h l w := by
  simp only [List.mem_cons, Prod.mk.injEq, List.not_mem_nil, or_false] at hmem
  obtain ⟨rfl, rfl, rfl⟩ | ⟨rfl, rfl, rfl⟩ | ⟨rfl, rfl, rfl⟩ | ⟨rfl, rfl, rfl⟩ := hmem
  all_goals exact ⟨rfl, rfl, rfl, by decide, fun _ => rfl, fun _ => rfl⟩

/-- Settles O24: the four registers have their halves alike, and a write of either reads back at its width. -/
theorem registerHalvesShareOneWord : Obligations.RegisterHalvesShareOneWord := by
  intro h l w hmem v s
  obtain ⟨high, low, width, ⟨hfl, hiid⟩, readHigh, readLow⟩ := halvesOf_of_mem hmem
  refine ⟨(ofHiLo_hi_lo _).symm, ?_, ?_, writeReg_half high v s, writeReg_half low v s, ?_⟩
  · rw [readHigh, toNat_ofHiLo_zero, toNat_hiByte]
  · rw [readLow, toNat_ofHiLo_zero, toNat_loByte]
  · obtain ⟨t, ht, hread, -⟩ := writeReg_reads hfl hiid v s
    exact ⟨t, ht, by rw [hread, width, lowBits_16]⟩

end Sys2Proof.Machine

/-! Proofs about memory (spec 20_memory.md): the two bytes a stored word leaves, and what a load of them gives. -/

namespace Sys2Proof.Machine

/-! ## The bytes of a stored word -/

theorem firstByte_eq_loByte (v : Word) : firstByte v = loByte v := rfl

theorem secondByte_eq_hiByte (v : Word) : secondByte v = hiByte v := rfl

theorem readByte_writeWord_first (a v : Word) (s : State) : readByte a (writeWord a v s) = firstByte v := by
  rw [readByte_writeWord, if_neg (add_one_ne a).symm, if_pos rfl]

theorem readByte_writeWord_second (a v : Word) (s : State) : readByte (a + 1) (writeWord a v s) = secondByte v := by
  rw [readByte_writeWord, if_pos rfl]

theorem writeWord_memSameOutside (a v : Word) (s : State) : MemSameOutside a s (writeWord a v s) :=
  fun _ h1 h2 => readByte_writeWord_outside h1 h2 v s

/-- Settles O23: a load by what the peer answers, and a stored word by its two bytes, which are never at one address. -/
theorem storedWordReadsBack : Obligations.StoredWordReadsBack := by
  refine ⟨fun acc a s => ⟨rfl, loadByte_of_noAnswer, fun _ _ _ hs h => loadByte_of_answer hs h⟩, fun a v s => ?_⟩
  refine ⟨readWord_writeWord a v s, ?_, ?_, writeWord_memSameOutside a v s⟩
  · rw [readByte_writeWord_first, firstByte_eq_loByte, toNat_loByte]
  · rw [readByte_writeWord_second, secondByte_eq_hiByte, toNat_hiByte]

end Sys2Proof.Machine

/-! Proofs about the decoder (spec 30_encoding.md): what one operand's mode field and literal decode to, and that four
bytes after the instruction word always suffice. -/

namespace Sys2Proof

/-! ## Mode fields and register numbers -/

/-- Bits 1 and 0 both set is the one combination without a form (30_encoding.md R93, R95). -/
theorem formOfMode_eq_none_iff : ∀ m : BitVec 4, formOfMode m = none ↔ m &&& 0b0011 = 0b0011 := by decide

theorem bits_of_formOfMode {m : BitVec 4} {form : Form} (h : formOfMode m = some form) :
    form.bits = m &&& 0b0011 := by
  cases form <;> revert m <;> decide

/-- The table of R102 lists the modes with a form that the class accepts. -/
theorem mem_classModes_iff (c : OperandClass) (m : BitVec 4) :
    m ∈ Machine.classModes c ↔ ∃ form, formOfMode m = some form ∧ c.accepts (m.getLsbD 3) form = true := by
  rw [← Option.any_eq_true]
  cases c <;> revert m <;> decide

theorem Reg.ofNumber_of_le {b : Byte} (h : b.toNat ≤ 0x10) : ∃ r, Reg.ofNumber b = some r ∧ r.number = b := by
  unfold Reg.ofNumber
  split
  case h_18 =>
    simp only [imp_false] at *
    omega
  all_goals next hb => exact ⟨_, rfl, BitVec.eq_of_toNat_eq hb.symm⟩

theorem Reg.ofNumber_of_gt {b : Byte} (h : 0x10 < b.toNat) : Reg.ofNumber b = none := by
  unfold Reg.ofNumber
  split
  case h_18 => rfl
  all_goals omega

/-! ## One operand -/

section Operand

variable {c : OperandClass} {m : BitVec 4} {form : Form} {x y : Byte} {rest : List Byte}

theorem decodeOperand_noForm (h : formOfMode m = none) (bs : List Byte) :
    decodeOperand c m bs = .error .invalidAddressingMode := by
  simp [decodeOperand, h]

theorem decodeOperand_notAccepted (hform : formOfMode m = some form) (hc : c.accepts (m.getLsbD 3) form = false)
    (bs : List Byte) : decodeOperand c m bs = .error .illegalOperandMode := by
  simp only [decodeOperand, hform, hc, Bool.false_eq_true, if_false]

theorem decodeOperand_noRegister (hform : formOfMode m = some form) (hc : c.accepts (m.getLsbD 3) form = true)
    (hreg : m.getLsbD 3 = true) (hx : Reg.ofNumber x = none) :
    decodeOperand c m (x :: rest) = .error .invalidRegister := by
  rw [hreg] at hc
  simp only [decodeOperand, hform, hc, hreg, hx, if_true]

theorem decodeOperand_register {r : Reg} (hform : formOfMode m = some form)
    (hc : c.accepts (m.getLsbD 3) form = true) (hreg : m.getLsbD 3 = true) (hx : Reg.ofNumber x = some r) :
    decodeOperand c m (x :: rest) = .ok (.reg form (m.getLsbD 2) r, rest) := by
  rw [hreg] at hc
  simp only [decodeOperand, hform, hc, hreg, hx, if_true]

theorem decodeOperand_literal (hform : formOfMode m = some form) (hc : c.accepts (m.getLsbD 3) form = true)
    (hreg : m.getLsbD 3 = false) :
    decodeOperand c m (x :: y :: rest) = .ok (.lit form (m.getLsbD 2) (wordOfBytes x y), rest) := by
  rw [hreg] at hc
  simp only [decodeOperand, hform, hc, hreg, Bool.false_eq_true, if_true, if_false]

end Operand

/-- Settles O4: the table of R102 read as a form and the class's answer to it, one equation of the decoder a clause. -/
theorem decodeOperandChecksInOrder : Obligations.DecodeOperandChecksInOrder := by
  intro c m x y rest
  rw [ne_eq, ← formOfMode_eq_none_iff, mem_classModes_iff]
  refine ⟨fun h => decodeOperand_noForm h _, fun hsome hout => ?_, ?_, ?_, ?_⟩
  · obtain ⟨form, hform⟩ := Option.ne_none_iff_exists'.mp hsome
    have hc : c.accepts (m.getLsbD 3) form = false :=
      Bool.eq_false_iff.mpr fun hc => hout ⟨form, hform, hc⟩
    exact decodeOperand_notAccepted hform hc _
  · rintro ⟨form, hform, hc⟩ hreg hx
    exact decodeOperand_noRegister hform hc hreg (Reg.ofNumber_of_gt hx)
  · rintro ⟨form, hform, hc⟩ hreg hx
    obtain ⟨r, hr, hnumber⟩ := Reg.ofNumber_of_le hx
    exact ⟨form, r, decodeOperand_register hform hc hreg hr, hnumber, bits_of_formOfMode hform⟩
  · rintro ⟨form, hform, hc⟩ hreg
    exact ⟨form, decodeOperand_literal hform hc hreg, bits_of_formOfMode hform⟩

/-- Settles O3, by evaluation of the decoder on the five byte lists. -/
theorem writtenOutWordsDecode : Obligations.WrittenOutWordsDecode := ⟨rfl, rfl, rfl, rfl, rfl⟩

/-! ## Enough bytes -/

/-- Two bytes suffice for an operand, and it leaves all but two of those given (30_encoding.md R97). -/
theorem decodeOperand_of_two_le (c : OperandClass) (m : BitVec 4) {bs : List Byte} (h : 2 ≤ bs.length) :
    (∃ e, decodeOperand c m bs = .error e ∧ e ≠ .truncated) ∨
      ∃ a rest, decodeOperand c m bs = .ok (a, rest) ∧ bs.length ≤ rest.length + 2 := by
  match bs, h with
  | x :: y :: rest, _ =>
    obtain ⟨badBits, outside, noRegister, register, literal⟩ := decodeOperandChecksInOrder c m x y rest
    by_cases hbits : m &&& 0b0011 = 0b0011
    · exact .inl ⟨_, badBits hbits, by decide⟩
    by_cases hclass : m ∈ Machine.classModes c
    · cases hreg : m.getLsbD 3
      · obtain ⟨form, hok, -⟩ := literal hclass hreg
        exact .inr ⟨_, _, hok, by simp⟩
      · by_cases hx : x.toNat ≤ 0x10
        · obtain ⟨form, r, hok, -⟩ := register hclass hreg hx
          exact .inr ⟨_, _, hok, by simp⟩
        · exact .inl ⟨_, noRegister hclass hreg (by omega), by decide⟩
    · exact .inl ⟨_, outside hbits hclass, by decide⟩

/-- Four bytes suffice for the operands of any row (30_encoding.md R99). -/
theorem Row.decode_ne_truncated (row : Row) (mode1 mode2 : BitVec 4) {bs : List Byte} (h : 4 ≤ bs.length) :
    row.decode mode1 mode2 bs ≠ .error .truncated := by
  cases row with
  | zero i =>
    simp only [Row.decode]
    split <;> simp
  | one c mk =>
    obtain ⟨e, ha, he⟩ | ⟨a, rest, ha, -⟩ := decodeOperand_of_two_le c mode1 (bs := bs) (by omega)
    · simpa [Row.decode, ha] using he
    · simp only [Row.decode, ha]
      split <;> simp
  | two c d mk =>
    obtain ⟨e, ha, he⟩ | ⟨a, rest, ha, hrest⟩ := decodeOperand_of_two_le c mode1 (bs := bs) (by omega)
    · simpa [Row.decode, ha] using he
    · obtain ⟨e, hb, he⟩ | ⟨b, rest', hb, -⟩ := decodeOperand_of_two_le d mode2 (bs := rest) (by omega)
      · simpa [Row.decode, ha, hb] using he
      · simp [Row.decode, ha, hb]

theorem decodeWord_ne_truncated (w : Word) {bs : List Byte} (h : 4 ≤ bs.length) :
    decodeWord w bs ≠ .error .truncated := by
  unfold decodeWord
  split
  · simp
  next row _ => exact row.decode_ne_truncated _ _ h

/-! ## Unused mode fields -/

theorem Row.decode_zero_unused (i : Instr) {mode1 mode2 : BitVec 4} (h : mode1 ≠ 0 ∨ mode2 ≠ 0) (bs : List Byte) :
    (Row.zero i).decode mode1 mode2 bs = .error .unusedModeField := by
  have hzero : ¬ (mode1 = 0 ∧ mode2 = 0) := by tauto
  simp only [Row.decode, if_neg hzero]

theorem Row.decode_one_unused {c : OperandClass} {mk : Operand → Instr} {mode1 mode2 : BitVec 4} {bs rest : List Byte}
    {a : Operand} (ha : decodeOperand c mode1 bs = .ok (a, rest)) (h : mode2 ≠ 0) :
    (Row.one c mk).decode mode1 mode2 bs = .error .unusedModeField := by
  simp only [Row.decode, ha, if_neg h]

theorem decodeWord_of_row {w : Word} {row : Row} (h : rowOf (hiByte w) = some row) (bs : List Byte) :
    decodeWord w bs = row.decode (w.extractLsb' 4 4) (w.extractLsb' 0 4) bs := by
  simp only [decodeWord, h]

end Sys2Proof

namespace Sys2Proof.Machine

/-! ## What the step fetches -/

/-- The decoder's view of the fetched bytes: the instruction word at IP, and four bytes after it. -/
theorem decode_fetchBytes (s : State) :
    decode (fetchBytes s) = decodeWord (loadWord .fetch s.ip s) ((fetchBytes s).drop 2) := by
  have hfirst : s.ip + BitVec.ofNat 16 0 = s.ip := BitVec.add_zero _
  simp only [fetchBytes, List.map_cons, hfirst]
  rfl

theorem decode_fetchBytes_ne_truncated (s : State) : decode (fetchBytes s) ≠ .error .truncated := by
  rw [decode_fetchBytes]
  exact decodeWord_ne_truncated _ (by simp [fetchBytes])

theorem runInstruction_of_ok {s : State} {i : Instr} (h : decode (fetchBytes s) = .ok i) :
    runInstruction s = exec i s := by
  simp only [runInstruction, h]

theorem runInstruction_of_error {s : State} {e : DecodeError} (h : decode (fetchBytes s) = .error e) :
    runInstruction s = rejectBytes e s := by
  simp only [runInstruction, h]

/-- Below reset and the fault state, with no request or a masked one, the instruction runs (60_exceptions.md R259). -/
theorem step_of_undisturbed {s : State} (h : Undisturbed s) : step s = runInstruction (takeInput s) := by
  obtain ⟨hfault, hreset, hirq⟩ := h
  rw [step_of_running hfault hreset]
  obtain hnone | hmasked := hirq
  · simp only [hnone, runBoundary]
  · cases (boundaryInput s).irq <;> simp [runBoundary, hmasked]

theorem step_of_decode_error {s : State} {e : DecodeError} (hs : Undisturbed s)
    (h : decode (fetchBytes (takeInput s)) = .error e) : step s = rejectBytes e (takeInput s) := by
  rw [step_of_undisturbed hs, runInstruction_of_error h]

/-- Settles O9: `rejectBytes` read off for each check, and the fetch is never too short. -/
theorem stepRejectsUndecodableBytes : Obligations.StepRejectsUndecodableBytes := by
  intro s e hs h
  have hstep := step_of_decode_error hs h
  refine ⟨?_, ?_, ?_, ?_, ?_, ?enough⟩
  case enough =>
    rintro rfl
    exact decode_fetchBytes_ne_truncated _ h
  all_goals rintro rfl; exact hstep

/-- Settles O7: the row and, where it has one, its operand decode, so the check of the unused field is what fails. -/
theorem unusedModeFieldIsRefused : Obligations.UnusedModeFieldIsRefused := by
  intro s hs w mode1 mode2
  have hw : decode (fetchBytes (takeInput s)) = decodeWord w ((fetchBytes (takeInput s)).drop 2) := by
    rw [decode_fetchBytes, takeInput_ip]
  have refused (h : decode (fetchBytes (takeInput s)) = .error .unusedModeField) :
      step s = .refused .unusedModeField := step_of_decode_error hs h
  refine ⟨fun i hrow hmode => refused ?_, fun c mk a rest hrow ha hmode => refused ?_⟩
  · rw [hw, decodeWord_of_row hrow, Row.decode_zero_unused i hmode]
  · rw [hw, decodeWord_of_row hrow, Row.decode_one_unused ha hmode]

/-! ## No host-level fault -/

section NoFault

variable (f : Fault)

theorem next_ne_fault (t : State) : (.next t : Result) ≠ .fault f := nofun

theorem raise_ne_fault (c : Cause) (s : State) : raise c s ≠ .fault f := next_ne_fault f _

theorem modifyLocation_ne_fault (npc : Word) (op : Operand) (g : Nat → Word → Word) (s : State) :
    modifyLocation npc op g s ≠ .fault f := by
  unfold modifyLocation
  split
  · exact raise_ne_fault f _ s
  · exact conclude_ne_fault s _ f

theorem modifyRegister_ne_fault (npc : Word) (op : Operand) (g : Nat → Word → Word) (s : State) :
    modifyRegister npc op g s ≠ .fault f := by
  unfold modifyRegister
  split
  · exact modifyLocation_ne_fault f npc op g s
  · exact raise_ne_fault f _ s

theorem moveToRegister_ne_fault (npc : Word) (dst : Operand) (v : Word) (s : State) :
    moveToRegister npc dst v s ≠ .fault f := by
  unfold moveToRegister
  split
  · exact conclude_ne_fault s _ f
  · exact raise_ne_fault f _ s

theorem receive_ne_fault (count : Nat) (a b : Operand) (s : State) : receive count a b s ≠ .fault f := by
  simp only [receive, unitTarget_eq]
  exact conclude_ne_fault s _ f

/-- No instruction ends in a host-level fault: each answers a next state, an exception or a refusal. -/
theorem exec_ne_fault (i : Instr) (s : State) : exec i s ≠ .fault f := by
  cases i with
  | adc | add | sub | cmp | mul | imul | and | or | xor | test => exact next_ne_fault f _
  | jmp | jz | jg | jge | jl | jle | jc | js | jnz | jnc | jns | nop => exact next_ne_fault f _
  | clo | clc | clz | cln | cli | sto | stc | stz | stn | sti | out | bot => exact next_ne_fault f _
  | inc | dec => exact modifyRegister_ne_fault f _ _ _ s
  | neg | not => exact modifyLocation_ne_fault f _ _ _ s
  | sl | sr | rol | ror =>
    simp only [exec, execSl, execSr, execRol, execRor]
    exact modifyLocation_ne_fault f _ _ _ s
  | ld => exact moveToRegister_ne_fault f _ _ _ s
  | push | call | ret | iret => exact conclude_ne_fault s _ f
  | inp => exact receive_ne_fault f 1 _ _ s
  | bin => exact receive_ne_fault f _ _ _ s
  | div | idiv =>
    simp only [exec, execDiv, execIdiv]
    split
    · exact raise_ne_fault f _ s
    · exact next_ne_fault f _
  | mov =>
    simp only [exec, execMov]
    split
    · exact moveToRegister_ne_fault f _ _ _ s
    · exact raise_ne_fault f _ s
  | st =>
    simp only [exec, execSt]
    split
    · exact next_ne_fault f _
    · exact raise_ne_fault f _ s
  | pop =>
    simp only [exec, execPop]
    split
    · exact raise_ne_fault f _ s
    · exact conclude_ne_fault s _ f
  | int =>
    simp only [exec, execInt]
    split
    · split
      · exact conclude_ne_fault s _ f
      · exact next_ne_fault f _
    · exact raise_ne_fault f _ s

/-- Of the decoder's errors only a fetch that is too short would be a host-level fault. -/
theorem rejectBytes_ne_fault {e : DecodeError} (he : e ≠ .truncated) (s : State) : rejectBytes e s ≠ .fault f := by
  cases e
  case truncated => exact absurd rfl he
  all_goals nofun

theorem runInstruction_ne_fault (s : State) : runInstruction s ≠ .fault f := by
  cases h : decode (fetchBytes s) with
  | ok i =>
    rw [runInstruction_of_ok h]
    exact exec_ne_fault f i s
  | error e =>
    rw [runInstruction_of_error h]
    refine rejectBytes_ne_fault f ?_ s
    rintro rfl
    exact decode_fetchBytes_ne_truncated s h

theorem runBoundary_ne_fault (irq : Option Byte) (s : State) : runBoundary irq s ≠ .fault f := by
  unfold runBoundary
  split
  · split
    · exact conclude_ne_fault s _ f
    · exact runInstruction_ne_fault f s
  · exact runInstruction_ne_fault f s

end NoFault

/-- Settles O22: reset and the fault state answer a next state, and six fetched bytes suffice the decoder. -/
theorem stepNeverEndsInAHostFault : Obligations.StepNeverEndsInAHostFault := by
  intro s f
  cases hreset : (boundaryInput s).reset
  · cases hfault : s.fault with
    | some c =>
      rw [step_of_fault hfault hreset]
      exact next_ne_fault f _
    | none =>
      rw [step_of_running hfault hreset]
      exact runBoundary_ne_fault f _ _
  · rw [step_of_reset hreset]
    exact next_ne_fault f _

/-! ## Operands -/

/-- A plain operand is its literal or its register: the relative bit has no effect (30_encoding.md R96). -/
theorem operandBase_plain {op : Operand} (h : operandForm op = .plain) (npc : Word) (s : State) :
    operandBase npc op s = operandRaw op s := by
  cases op <;> simp [operandForm] at h <;> simp [operandBase, isRelative, h]

/-- A relative mode adds to the address of the instruction, whatever the next one's is (30_encoding.md R103; D7). -/
theorem operandBase_lit {form : Form} (h : form ≠ .plain) (npc : Word) (rel : Bool) (v : Word) (s : State) :
    operandBase npc (.lit form rel v) s = if rel then s.ip + v else v := by
  simp [operandBase, isRelative, operandRaw, relOrigin, Config.relBase, h]

/-- The base of a register operand in memory: `operandBase_lit` with the register for the literal (R103; D7). -/
theorem operandBase_reg {form : Form} (h : form ≠ .plain) (npc : Word) (rel : Bool) (r : Reg) (s : State) :
    operandBase npc (.reg form rel r) s = if rel then s.ip + readReg r s else readReg r s := by
  simp [operandBase, isRelative, operandRaw, relOrigin, Config.relBase, h]

section Value

variable {op : Operand} (i : OperandIndex) (npc : Word) (s : State)

theorem operandValue_plain (h : operandForm op = .plain) : operandValue i npc op s = operandRaw op s := by
  simp only [operandValue, h, operandBase_plain h]

theorem operandValue_direct (h : operandForm op = .direct) :
    operandValue i npc op s = loadWord (.value i) (operandBase npc op s) s := by
  simp only [operandValue, h]

theorem operandValue_indirect (h : operandForm op = .indirect) :
    operandValue i npc op s = loadWord (.value i) (loadWord (.pointer i) (operandBase npc op s) s) s := by
  simp only [operandValue, h]

end Value

/-- Settles O25: the form says how many loads there are, and the base what the first one's address is. -/
theorem operandValueOfEachMode : Obligations.OperandValueOfEachMode := by
  intro s i n v r rel pointer value
  have litDirect (rel : Bool) : operandValue i n (.lit .direct rel v) s = value (if rel then s.ip + v else v) := by
    rw [operandValue_direct i n s rfl, operandBase_lit (by decide)]
  have litIndirect (rel : Bool) :
      operandValue i n (.lit .indirect rel v) s = value (pointer (if rel then s.ip + v else v)) := by
    rw [operandValue_indirect i n s rfl, operandBase_lit (by decide)]
  have regDirect (rel : Bool) :
      operandValue i n (.reg .direct rel r) s = value (if rel then s.ip + readReg r s else readReg r s) := by
    rw [operandValue_direct i n s rfl, operandBase_reg (by decide)]
  have regIndirect (rel : Bool) :
      operandValue i n (.reg .indirect rel r) s =
        value (pointer (if rel then s.ip + readReg r s else readReg r s)) := by
    rw [operandValue_indirect i n s rfl, operandBase_reg (by decide)]
  exact ⟨operandValue_immediate i n rel v s, litDirect false, litIndirect false, litDirect true, litIndirect true,
    operandValue_plain i n s rfl, regDirect false, regIndirect false, regDirect true, regIndirect true⟩

/-- Settles O26: a location is the operand's register, its base, or the pointer at its base. -/
theorem operandLocationOfEachMode : Obligations.OperandLocationOfEachMode := by
  intro s i n v r rel pointer
  have direct : Form.direct ≠ .plain := by decide
  have indirect : Form.indirect ≠ .plain := by decide
  refine ⟨rfl, rfl, ?_, ?_, ?_, ?_⟩
  · rw [← operandBase_lit direct n]; rfl
  · rw [← operandBase_reg direct n]; rfl
  · rw [← operandBase_lit indirect n]; rfl
  · rw [← operandBase_reg indirect n]; rfl

end Sys2Proof.Machine

/-! Proofs about arithmetic (spec 40_arithmetic.md, and NOT of 41_logic_shift.md): what the shared shapes of meanings
leave, the flags of a sum, a difference and a product, and the value each operation writes at a location's width. -/

namespace Sys2Proof.Machine

/-! ## Frames -/

theorem Part.same_refl (p : Part) (s : State) : p.same s s := by
  cases p
  case mem => exact fun _ => rfl
  all_goals rfl

theorem Part.same_trans {p : Part} {s t u : State} (hst : p.same s t) (htu : p.same t u) : p.same s u := by
  cases p
  case mem => exact fun a => (htu a).trans (hst a)
  all_goals exact htu.trans hst

theorem OnlyChanges.trans {ps qs : List Part} {s t u : State} (hst : OnlyChanges ps s t) (htu : OnlyChanges qs t u) :
    OnlyChanges (ps ++ qs) s u := by
  intro p hp
  obtain ⟨hps, hqs⟩ := not_or.mp (mt List.mem_append.mpr hp)
  exact Part.same_trans (hst p hps) (htu p hqs)

/-- Pieces may be added to the list, and one that is the same after all left out. -/
theorem OnlyChanges.relist {ps qs : List Part} {s t : State} (h : OnlyChanges ps s t)
    (hsame : ∀ p ∈ ps, p ∉ qs → p.same s t) : OnlyChanges qs s t := by
  intro p hp
  by_cases hps : p ∈ ps
  · exact hsame p hps hp
  · exact h p hps

theorem setIp_onlyChanges (v : Word) (s : State) : OnlyChanges [.ip] s (s.setIp v) := by
  intro p hp
  have kept := p.same_refl s
  cases p <;> simp at hp <;> exact kept

theorem retireAlu_onlyChanges (named : List Flag) (r : Word) (s : State) :
    OnlyChanges [.ar, .draws] s (retireAlu named r s) := by
  intro p hp
  have kept := p.same_refl s
  cases p <;> simp at hp <;> exact kept

/-- A register reads the same where the piece of state that holds it is the same. -/
theorem readReg_congr {r : Reg} {s t : State} (h : (regPart r).same s t) : readReg r t = readReg r s := by
  cases r <;> simp only [regPart, Part.same] at h <;> simp only [readReg, h]

/-- A half of a general register is no part of IP or AR. -/
theorem regPart_of_otherHalf {r h : Reg} (hr : otherHalf r = some h) :
    regPart h ∉ [Part.ip] ∧ regPart h ∉ [Part.ar, .draws] := by
  cases r <;> simp [otherHalf] at hr <;> subst hr <;> decide

/-! ## Completion -/

theorem CompletesWith.imp {i : Instr} {s : State} {P Q : State → Prop} (h : CompletesWith i s P)
    (hPQ : ∀ t, P t → Q t) : CompletesWith i s Q := by
  obtain ⟨t, hexec, ht⟩ := h
  exact ⟨t, hexec, hPQ t ht⟩

/-- An instruction that ends in `accumulate` completes with the pair in ACL and FL, at the next instruction. -/
theorem accumulate_completes {i : Instr} {named : List Flag} {npc : Word} {p : Word × Word} {s : State}
    (h : exec i s = accumulate named npc p s) :
    CompletesWith i s fun t => t.acl = p.1 ∧ t.fl = p.2 ∧ t.ip = npc ∧ FlagsSameExcept (flagsWrittenBy i) s t ∧
      OnlyChanges [.acl, .fl, .ip, .ar, .draws] s t := by
  refine ⟨_, h, rfl, rfl, rfl, flagWritersAreThoseListed _ _ _ h, fun q hq => ?_⟩
  have kept := q.same_refl s
  cases q <;> simp at hq <;> exact kept

/-- An instruction that ends in `accumulate` with FL as it was changes no flag. -/
theorem accumulate_completes_keepingFlags {i : Instr} {named : List Flag} {npc r : Word} {s : State}
    (h : exec i s = accumulate named npc (r, s.fl) s) :
    CompletesWith i s fun t => t.acl = r ∧ t.ip = npc ∧ OnlyChanges [.acl, .ip, .ar, .draws] s t := by
  refine (accumulate_completes h).imp fun t ⟨hacl, hfl, hip, _, honly⟩ => ⟨hacl, hip, honly.relist ?_⟩
  intro q hq hout
  have : q = .fl := by simp at hq hout; tauto
  exact this ▸ hfl

/-- An instruction that ends in `compareOnly` completes with the flags in FL, at the next instruction. -/
theorem compareOnly_completes {i : Instr} {named : List Flag} {npc : Word} {p : Word × Word} {s : State}
    (h : exec i s = compareOnly named npc p s) :
    CompletesWith i s fun t => t.fl = p.2 ∧ t.ip = npc ∧ FlagsSameExcept (flagsWrittenBy i) s t ∧
      OnlyChanges [.fl, .ip, .ar, .draws] s t := by
  refine ⟨_, h, rfl, rfl, flagWritersAreThoseListed _ _ _ h, fun q hq => ?_⟩
  have kept := q.same_refl s
  cases q <;> simp at hq <;> exact kept

/-! ## The flags of a result -/

section Status

variable (r : Word) (cf of : Bool) (fl : Word)

@[simp] theorem getFlag_cf_putStatus : getFlag .cf (putStatus r cf of fl) = cf := by simp [putStatus]

@[simp] theorem getFlag_of_putStatus : getFlag .of (putStatus r cf of fl) = of := by simp [putStatus]

@[simp] theorem getFlag_nf_putStatus : getFlag .nf (putStatus r cf of fl) = r.getLsbD 15 := by simp [putStatus]

/-- ZF says that the result is 0 and neither CF nor OF is set (90_conflicts.md C2). -/
theorem getFlag_zf_putStatus :
    getFlag .zf (putStatus r cf of fl) = true ↔ r = 0 ∧ cf = false ∧ of = false := by
  simp [putStatus, and_assoc]

end Status

section Addition

variable (a b : Word) (c : Bool) (fl : Word)

theorem addFlags_toNat : (addFlags a b c fl).1.toNat = (a.toNat + b.toNat + c.toNat) % 65536 :=
  BitVec.toNat_ofNat ..

theorem addFlags_noCarry : (addFlags a b false fl).1 = a + b := by
  apply BitVec.eq_of_toNat_eq
  rw [addFlags_toNat, BitVec.toNat_add]
  rfl

theorem getFlag_cf_addFlags :
    getFlag .cf (addFlags a b c fl).2 = true ↔ 65536 ≤ a.toNat + b.toNat + c.toNat := by
  simp [addFlags]

theorem getFlag_of_addFlags :
    getFlag .of (addFlags a b c fl).2 = true ↔
      a.toInt + b.toInt + c.toNat < -32768 ∨ 32767 < a.toInt + b.toInt + c.toNat := by
  simp only [addFlags, getFlag_of_putStatus, signedOverflow_iff]

theorem getFlag_nf_addFlags : getFlag .nf (addFlags a b c fl).2 = (addFlags a b c fl).1.getLsbD 15 :=
  getFlag_nf_putStatus ..

theorem getFlag_zf_addFlags :
    getFlag .zf (addFlags a b c fl).2 = true ↔
      (addFlags a b c fl).1 = 0 ∧ getFlag .cf (addFlags a b c fl).2 = false ∧
        getFlag .of (addFlags a b c fl).2 = false := by
  simp only [addFlags, getFlag_zf_putStatus, getFlag_cf_putStatus, getFlag_of_putStatus]

end Addition

section Subtraction

variable (a b fl : Word)

theorem getFlag_cf_subFlags : getFlag .cf (subFlags a b fl).2 = true ↔ a.toNat < b.toNat := by
  simp [subFlags]

theorem getFlag_of_subFlags :
    getFlag .of (subFlags a b fl).2 = true ↔ a.toInt - b.toInt < -32768 ∨ 32767 < a.toInt - b.toInt := by
  simp only [subFlags, getFlag_of_putStatus, signedOverflow_iff]

theorem getFlag_nf_subFlags : getFlag .nf (subFlags a b fl).2 = (a - b).getLsbD 15 := getFlag_nf_putStatus ..

/-- After a difference ZF says that the two were equal: equal words give neither a borrow nor an overflow. -/
theorem getFlag_zf_subFlags : getFlag .zf (subFlags a b fl).2 = true ↔ a = b := by
  simp only [subFlags, getFlag_zf_putStatus]
  constructor
  · rintro ⟨hzero, -, -⟩
    exact sub_eq_zero.mp hzero
  · rintro rfl
    simp [signedOverflow]

end Subtraction

/-! ## ADC, ADD, SUB, CMP -/

/-- Settles O27: `addFlags` with the carry flag as the carry in. -/
theorem adcAddsOperandAndCarry : Obligations.AdcAddsOperandAndCarry := by
  intro a s
  have carry : (if getFlag .cf s.fl then 1 else 0) = (getFlag .cf s.fl).toNat := by
    cases getFlag .cf s.fl <;> rfl
  refine (accumulate_completes (i := .adc a) rfl).imp fun t ⟨hacl, hfl, hip, hflags, honly⟩ => ?_
  simp only [carry, hacl, hfl]
  exact ⟨addFlags_toNat .., getFlag_cf_addFlags .., getFlag_of_addFlags .., getFlag_nf_addFlags ..,
    getFlag_zf_addFlags .., hip, hflags, honly⟩

/-- Settles O28: `addFlags` with no carry in. -/
theorem addAddsOperand : Obligations.AddAddsOperand := by
  intro a s
  refine (accumulate_completes (i := .add a) rfl).imp fun t ⟨hacl, hfl, hip, hflags, honly⟩ => ?_
  have overflow := getFlag_of_addFlags s.acl (operandValue .first (nextIp [a] s) a s) false s.fl
  simp only [Bool.toNat_false, Nat.cast_zero, add_zero] at overflow
  simp only [hacl, hfl]
  exact ⟨addFlags_noCarry .., getFlag_cf_addFlags .., overflow, getFlag_nf_addFlags ..,
    getFlag_zf_addFlags .., hip, hflags, honly⟩

/-- Settles O29: `subFlags` with ACL as the minuend. -/
theorem subSubtractsOperand : Obligations.SubSubtractsOperand := by
  intro a s
  refine (accumulate_completes (i := .sub a) rfl).imp fun t ⟨hacl, hfl, hip, hflags, honly⟩ => ?_
  simp only [hacl, hfl]
  exact ⟨rfl, getFlag_cf_subFlags .., getFlag_of_subFlags .., getFlag_nf_subFlags .., getFlag_zf_subFlags ..,
    hip, hflags, honly⟩

/-- Settles O30: `subFlags` with operand 2 as the minuend (90_conflicts.md C3). -/
theorem cmpSetsFlagsOfTheDifference : Obligations.CmpSetsFlagsOfTheDifference := by
  intro a b s
  refine (compareOnly_completes (i := .cmp a b) rfl).imp fun t ⟨hfl, hip, hflags, honly⟩ => ?_
  simp only [hfl]
  exact ⟨getFlag_cf_subFlags .., getFlag_of_subFlags .., getFlag_nf_subFlags ..,
    (getFlag_zf_subFlags ..).trans eq_comm, hip, hflags, honly⟩

/-! ## MUL and IMUL -/

@[simp] theorem getFlag_cf_putCarryOverflow (b : Bool) (fl : Word) : getFlag .cf (putCarryOverflow b fl) = b := by
  simp [putCarryOverflow]

@[simp] theorem getFlag_of_putCarryOverflow (b : Bool) (fl : Word) : getFlag .of (putCarryOverflow b fl) = b := by
  simp [putCarryOverflow]

/-- Settles O33: CF and OF are one test, whether the product reaches 2^16. -/
theorem mulMultipliesUnsigned : Obligations.MulMultipliesUnsigned := by
  intro a s
  refine (accumulate_completes (i := .mul a) rfl).imp fun t ⟨hacl, hfl, hip, hflags, honly⟩ => ?_
  simp only [hacl, hfl, mulFlags, getFlag_cf_putCarryOverflow, getFlag_of_putCarryOverflow]
  exact ⟨BitVec.toNat_ofNat .., decide_eq_true_iff, decide_eq_true_iff, hip, hflags, honly⟩

/-- The signed product modulo 2^16 is the product of words. -/
theorem imulFlags_fst (a b fl : Word) : (imulFlags a b fl).1 = a * b := by
  simp [imulFlags, BitVec.ofInt_mul]

theorem hiByte_ne_zero_iff (w : Word) : (hiByte w != 0) = true ↔ 256 ≤ w.toNat := by
  have hzero : (0 : Byte).toNat = 0 := rfl
  rw [bne_iff_ne, ne_eq, ← BitVec.toNat_inj, toNat_hiByte, hzero]
  omega

theorem imulFlags_snd (a b fl : Word) :
    (imulFlags a b fl).2 = putCarryOverflow (hiByte (imulFlags a b fl).1 != 0) fl := rfl

/-- Settles O34: CF and OF are one test, whether the stored result has a high byte (D32). -/
theorem imulTestsTheStoredHighByte : Obligations.ImulTestsTheStoredHighByte := by
  intro a s
  refine (accumulate_completes (i := .imul a) rfl).imp fun t ⟨hacl, hfl, hip, hflags, honly⟩ => ?_
  have tested : t.fl = putCarryOverflow (hiByte t.acl != 0) s.fl := by rw [hfl, imulFlags_snd, hacl]
  refine ⟨hacl.trans (imulFlags_fst ..), ?_, ?_, hip, hflags, honly⟩
  · rw [tested, getFlag_cf_putCarryOverflow, hiByte_ne_zero_iff]
  · rw [tested, getFlag_of_putCarryOverflow, hiByte_ne_zero_iff]

/-! ## DIV and IDIV -/

theorem exec_div_of_ne_zero {a : Operand} {s : State} (h : operandValue .first (nextIp [a] s) a s ≠ 0) :
    exec (.div a) s =
      accumulate [] (nextIp [a] s) (s.acl / operandValue .first (nextIp [a] s) a s, s.fl) s := by
  have quotient (x y : Word) : BitVec.ofNat 16 (x.toNat / y.toNat) = x / y := by
    apply BitVec.eq_of_toNat_eq
    rw [BitVec.toNat_udiv, BitVec.toNat_ofNat]
    exact Nat.mod_eq_of_lt (lt_of_le_of_lt (Nat.div_le_self ..) x.isLt)
  simp only [exec, execDiv, if_neg h, quotient]

theorem exec_div_zero {a : Operand} {s : State} (h : operandValue .first (nextIp [a] s) a s = 0) :
    exec (.div a) s = raise .divideByZero s := by
  simp only [exec, execDiv, if_pos h]

/-- Settles O35: the two branches of DIV on its divisor. -/
theorem divDividesUnsigned : Obligations.DivDividesUnsigned := by
  intro a s
  refine ⟨fun hv => ?_, fun hv => exec_div_zero hv⟩
  refine (accumulate_completes_keepingFlags (exec_div_of_ne_zero hv)).imp fun t ⟨hacl, hip, honly⟩ => ?_
  exact ⟨by rw [hacl, BitVec.toNat_udiv], hip, honly⟩

/-- The quotient that IDIV stores is the signed division of words, whose one overflow wraps (R143; D20). -/
theorem idivStore_tdiv (x y : Word) : idivStore (x.toInt.tdiv y.toInt) = x.sdiv y := by
  apply BitVec.eq_of_toInt_eq
  rw [idivStore, BitVec.toInt_ofInt, BitVec.toInt_sdiv]

theorem exec_idiv_of_ne_zero {a : Operand} {s : State} (h : operandValue .first (nextIp [a] s) a s ≠ 0) :
    exec (.idiv a) s =
      accumulate [] (nextIp [a] s) (s.acl.sdiv (operandValue .first (nextIp [a] s) a s), s.fl) s := by
  simp only [exec, execIdiv, idivRaises_eq, Bool.false_eq_true, or_false, if_neg h, idivQuotient_eq, idivStore_tdiv]

theorem exec_idiv_zero {a : Operand} {s : State} (h : operandValue .first (nextIp [a] s) a s = 0) :
    exec (.idiv a) s = raise .divideByZero s := by
  simp only [exec, execIdiv, h, true_or, if_true]

/-- Settles O36: the two branches of IDIV on its divisor; the quotient leaves the signed range for -32768 / -1 alone. -/
theorem idivDividesTowardZero : Obligations.IdivDividesTowardZero := by
  intro a s
  refine ⟨fun hv => ?_, fun hv => exec_idiv_zero hv⟩
  refine (accumulate_completes_keepingFlags (exec_idiv_of_ne_zero hv)).imp fun t ⟨hacl, hip, honly⟩ => ?_
  refine ⟨fun hfits => ?_, fun ⟨hmin, hneg⟩ => ?_, hip, honly⟩
  · rw [hacl]
    exact BitVec.toInt_sdiv_of_ne_or_ne _ _ (not_and_or.mp hfits)
  · rw [hacl, hmin, hneg]
    exact BitVec.intMin_sdiv_neg_one (w := 16)

/-! ## Read, modify and write -/

/-- A location takes the low bits of what is written, so values that agree there leave the same. -/
theorem AfterWrite.congr_value {extra : List Part} {l : Location} {v v' npc : Word} {s t : State}
    (hv : lowBits (locationWidth l) v = lowBits (locationWidth l) v') (h : AfterWrite extra l v npc s t) :
    AfterWrite extra l v' npc s t := by
  cases l with
  | reg r =>
    obtain ⟨hread, hip, hother, honly⟩ := h
    exact ⟨fun hr => (hread hr).trans hv, hip, hother, honly⟩
  | mem a =>
    obtain ⟨hread, hout, hip, honly⟩ := h
    have hv : v = v' := by simpa only [locationWidth, lowBits_16] using hv
    exact ⟨hread.trans hv, hout, hip, honly⟩

/-- A location written after IP has moved on, and AR then left free. -/
theorem writeLocation_retired {l : Location} {v npc : Word} {s t : State} (named : List Flag) (r : Word)
    (h : writeLocation l v (s.setIp npc) = .ok t) :
    AfterWrite [.ar, .draws] l v npc s (retireAlu named r t) := by
  have moved := setIp_onlyChanges npc s
  have retired := retireAlu_onlyChanges named r t
  have after := writeLocation_after h
  cases l with
  | reg d =>
    obtain ⟨hread, hip, hother, honly⟩ := after
    refine ⟨fun hd => ?_, hip, fun half hhalf => ?_, ((moved.trans honly).trans retired).relist fun p hp hout => ?_⟩
    · rw [readReg_congr (retired _ hd), hread List.not_mem_nil]
    · obtain ⟨notIp, notAr⟩ := regPart_of_otherHalf hhalf
      rw [readReg_congr (retired _ notAr), hother half hhalf, readReg_congr (moved _ notIp)]
    · simp at hp hout
      tauto
  | mem a =>
    obtain ⟨hread, hout, hip, honly⟩ := after
    refine ⟨hread, hout, hip, ((moved.trans honly).trans retired).relist fun p hp hout => ?_⟩
    simp at hp hout
    tauto

/-- FL and IID are the locations that refuse a write (10_state.md R33). -/
theorem writeLocation_refused {l : Location} (h : l = .reg .fl ∨ l = .reg .iid) (v : Word) (s : State) :
    writeLocation l v s = .error (.refuse .writeToFlOrIid) := by
  obtain rfl | rfl := h <;> rfl

/-- All that `modifyLocation` does with a location: the refusal of FL and IID, or a write of any value `v` that agrees
with the computed one at the location's width. -/
theorem modifyLocation_writes {i : Instr} {npc : Word} {op : Operand} {f : Nat → Word → Word} {s : State}
    {l : Location} {v : Word} (hexec : exec i s = modifyLocation npc op f s)
    (hl : operandLocation .first npc op s = some l)
    (hv : lowBits (locationWidth l) (f (locationWidth l) (readLocation l s)) = lowBits (locationWidth l) v) :
    WritesLocation i [.ar, .draws] l v npc s := by
  simp only [modifyLocation, hl] at hexec
  refine ⟨fun hrefused => ?_, fun hfl hiid => ?_⟩
  · rw [hexec, writeLocation_refused hrefused]
    rfl
  · obtain ⟨t, ht⟩ := writeLocation_ok hfl hiid (f (locationWidth l) (readLocation l s)) (s.setIp npc)
    rw [ht] at hexec
    exact ⟨_, hexec, (writeLocation_retired [] _ ht).congr_value hv⟩

/-! ## Values at the width of a location -/

theorem locationWidth_eq (l : Location) : locationWidth l = 8 ∨ locationWidth l = 16 := by
  cases l with
  | reg r => cases r <;> decide
  | mem a => exact .inr rfl

theorem readLocation_lt (l : Location) (s : State) : (readLocation l s).toNat < 2 ^ locationWidth l := by
  cases l with
  | reg r => exact readReg_lt r s
  | mem a => exact BitVec.isLt _

theorem lowBits_congr {w : Nat} {v v' : Word} (h : v.toNat % 2 ^ w = v'.toNat % 2 ^ w) :
    lowBits w v = lowBits w v' := by
  rw [lowBits, lowBits, h]

section Width

variable {w : Nat} (hw : w = 8 ∨ w = 16)
include hw

theorem lowBits_incAt (v : Word) : lowBits w (incAt w v) = lowBits w (v + 1) := by
  apply lowBits_congr
  obtain rfl | rfl := hw <;> simp [incAt]

theorem lowBits_decAt (v : Word) : lowBits w (decAt w v) = lowBits w (v - 1) := by
  apply lowBits_congr
  obtain rfl | rfl := hw
  all_goals
    simp only [decAt, BitVec.toNat_sub, BitVec.ofNat_eq_ofNat, BitVec.toNat_ofNat]
    omega

theorem lowBits_negAt {v : Word} (hv : v.toNat < 2 ^ w) : lowBits w (negAt w v) = lowBits w (0 - v) := by
  apply lowBits_congr
  obtain rfl | rfl := hw
  all_goals
    simp only [negAt, BitVec.toNat_sub, BitVec.ofNat_eq_ofNat, BitVec.toNat_ofNat]
    omega

theorem lowBits_notAt {v : Word} (hv : v.toNat < 2 ^ w) : lowBits w (notAt w v) = lowBits w (~~~v) := by
  apply lowBits_congr
  obtain rfl | rfl := hw
  all_goals
    simp only [notAt, BitVec.toNat_not, BitVec.toNat_ofNat]
    omega

end Width

/-! ## INC, DEC, NEG, NOT -/

/-- Class R is the plain registers (30_encoding.md R102). -/
theorem modifyRegister_register (npc : Word) (rel : Bool) (r : Reg) (f : Nat → Word → Word) (s : State) :
    modifyRegister npc (.reg .plain rel r) f s = modifyLocation npc (.reg .plain rel r) f s := rfl

/-- Settles O31: at the register's width `incAt` and `decAt` agree with the sum and the difference of words. -/
theorem incAndDecStepARegister : Obligations.IncAndDecStepARegister := by
  intro rel r s
  have width := locationWidth_eq (.reg r)
  exact ⟨modifyLocation_writes (modifyRegister_register _ rel r _ s) rfl (lowBits_incAt width _),
    modifyLocation_writes (modifyRegister_register _ rel r _ s) rfl (lowBits_decAt width _)⟩

/-- Settles O32: at the location's width `negAt` and `notAt` agree with the complements of words. -/
theorem negAndNotComplementALocation : Obligations.NegAndNotComplementALocation := by
  intro a s l hl
  have width := locationWidth_eq l
  have bound := readLocation_lt l s
  exact ⟨modifyLocation_writes rfl hl (lowBits_negAt width bound),
    modifyLocation_writes rfl hl (lowBits_notAt width bound)⟩

end Sys2Proof.Machine

/-! Proofs about logic and shifts (spec 41_logic_shift.md): the flags of AND and TEST, the results of OR and XOR, and
every bit of a shifted and of a rotated value at a location's width. -/

namespace Sys2Proof.Machine

/-! ## AND and TEST -/

section AndFlags

variable (r fl : Word)

theorem getFlag_zf_andFlags : getFlag .zf (andFlags r fl) = true ↔ r = 0 := by simp [andFlags]

theorem getFlag_of_andFlags : getFlag .of (andFlags r fl) = false := by simp [andFlags]

theorem getFlag_cf_andFlags : getFlag .cf (andFlags r fl) = false := by simp [andFlags]

end AndFlags

/-- More flags may be listed, in any order. -/
theorem FlagsSameExcept.mono {fs gs : List Flag} {s t : State} (h : FlagsSameExcept fs s t) (hsub : fs ⊆ gs) :
    FlagsSameExcept gs s t :=
  fun i hi => h i fun f hf => hi f (hsub hf)

/-- Settles O37: `andFlags` of the conjunction, which AND stores and TEST drops. -/
theorem andAndTestSetZeroFlag : Obligations.AndAndTestSetZeroFlag := by
  intro a s r flags
  have flags_of {t : State} (hfl : t.fl = andFlags r s.fl) (hkept : FlagsSameExcept [.of, .cf, .zf] s t) :
      flags t := by
    refine ⟨?_, ?_, ?_, hkept.mono (by decide)⟩ <;> rw [hfl]
    · exact getFlag_zf_andFlags ..
    · exact getFlag_of_andFlags ..
    · exact getFlag_cf_andFlags ..
  constructor
  · refine (accumulate_completes (i := .and a) rfl).imp fun t ⟨hacl, hfl, hip, hkept, honly⟩ => ?_
    exact ⟨hacl, flags_of hfl hkept, hip, honly⟩
  · refine (compareOnly_completes (i := .test a) rfl).imp fun t ⟨hfl, hip, hkept, honly⟩ => ?_
    exact ⟨flags_of hfl hkept, hip, honly⟩

/-! ## OR and XOR -/

/-- Settles O38: `|||` and `^^^` act bit by bit, and FL is handed on as it was. -/
theorem orAndXorKeepFlags : Obligations.OrAndXorKeepFlags := by
  intro a s v
  constructor
  · refine (accumulate_completes_keepingFlags (i := .or a) rfl).imp fun t ⟨hacl, hip, honly⟩ => ?_
    exact ⟨fun i => by rw [hacl, BitVec.getLsbD_or], hip, honly⟩
  · refine (accumulate_completes_keepingFlags (i := .xor a) rfl).imp fun t ⟨hacl, hip, honly⟩ => ?_
    exact ⟨fun i => by rw [hacl, BitVec.getLsbD_xor], hip, honly⟩

/-! ## Bits at a width -/

/-- A value below 2^w has no bit at `w` or above. -/
theorem getLsbD_of_width_le {w i : Nat} {v : Word} (hv : v.toNat < 2 ^ w) (hi : w ≤ i) : v.getLsbD i = false := by
  rw [← BitVec.testBit_toNat]
  exact Nat.testBit_lt_two_pow (hv.trans_le (Nat.pow_le_pow_right two_pos hi))

section Bits

variable {w : Nat} (hw : w = 8 ∨ w = 16)
include hw

/-- A count of `w` or more moves every bit out of the location (R157; D21). -/
theorem getLsbD_shiftLeftAt (v : Word) (n i : Nat) :
    (shiftLeftAt w v n).getLsbD i = (decide (i < w ∧ n ≤ i) && v.getLsbD (i - n)) := by
  by_cases hn : n < w
  · simp only [shiftLeftAt, if_pos hn, BitVec.getLsbD_ofNat, Nat.testBit_mod_two_pow, Nat.testBit_mul_two_pow,
      BitVec.testBit_toNat]
    by_cases hi : i < w
    · have hi16 : i < 16 := by omega
      simp [hi, hi16]
    · simp [hi]
  · have out : ¬ (i < w ∧ n ≤ i) := by omega
    simp [shiftLeftAt, hn, out]

/-- The bits that SR moves in from above are those past the location's width, which are 0 (R158; D21). -/
theorem getLsbD_shiftRightAt {v : Word} (hv : v.toNat < 2 ^ w) (n i : Nat) :
    (shiftRightAt w v n).getLsbD i = (decide (i + n < w) && v.getLsbD (i + n)) := by
  by_cases hn : n < w
  · simp only [shiftRightAt, if_pos hn, BitVec.getLsbD_ofNat, Nat.testBit_div_two_pow, BitVec.testBit_toNat]
    by_cases hin : i + n < w
    · have hi16 : i < 16 := by omega
      simp [hi16, hin]
    · simp [hin, getLsbD_of_width_le hv (not_lt.mp hin)]
  · have out : ¬ i + n < w := by omega
    simp [shiftRightAt, hn, out]

/-- The two parts of a value turned left by `k` places, its low bits moved up and its top `k` bits moved down, make one
turn: the bits below `k` come from the top of the location. -/
theorem getLsbD_turned {v : Word} (hv : v.toNat < 2 ^ w) {k : Nat} (hk : k ≤ w) (i : Nat) :
    (BitVec.ofNat 16 ((v.toNat * 2 ^ k % 2 ^ w) ||| (v.toNat / 2 ^ (w - k)))).getLsbD i =
      (decide (i < w) && v.getLsbD ((i + (w - k)) % w)) := by
  simp only [BitVec.getLsbD_ofNat, Nat.testBit_or, Nat.testBit_mod_two_pow, Nat.testBit_mul_two_pow,
    Nat.testBit_div_two_pow, BitVec.testBit_toNat]
  by_cases hi : i < w
  · have hi16 : i < 16 := by omega
    by_cases hki : k ≤ i
    · have source : (i + (w - k)) % w = i - k := by
        rw [show i + (w - k) = i - k + w by omega, Nat.add_mod_right, Nat.mod_eq_of_lt (by omega)]
      have above : v.getLsbD (i + (w - k)) = false := getLsbD_of_width_le hv (by omega)
      simp [hi, hi16, hki, source, above]
    · have source : (i + (w - k)) % w = i + (w - k) := Nat.mod_eq_of_lt (by omega)
      simp [hi, hi16, hki, source]
  · have above : v.getLsbD (i + (w - k)) = false := getLsbD_of_width_le hv (by omega)
    simp [hi, above]

theorem getLsbD_rotateLeftAt {v : Word} (hv : v.toNat < 2 ^ w) (n i : Nat) :
    (rotateLeftAt w v n).getLsbD i = (decide (i < w) && v.getLsbD ((i + (w - n % w)) % w)) :=
  getLsbD_turned hw hv (Nat.mod_lt n (by omega)).le i

/-- A turn right by `n mod w` places is a turn left by the rest of the width (R160). -/
theorem getLsbD_rotateRightAt {v : Word} (hv : v.toNat < 2 ^ w) (n i : Nat) :
    (rotateRightAt w v n).getLsbD i = (decide (i < w) && v.getLsbD ((i + n) % w)) := by
  have hk : n % w ≤ w := (Nat.mod_lt n (by omega)).le
  have turned := getLsbD_turned hw hv (Nat.sub_le w (n % w)) i
  rw [Nat.sub_sub_self hk, Nat.add_mod_mod] at turned
  rw [rotateRightAt, Nat.or_comm, turned]

end Bits

/-! ## SL, SR, ROL, ROR -/

section Meanings

variable (a b : Operand) (s : State)

theorem exec_sl : exec (.sl a b) s =
    modifyLocation (nextIp [a, b] s) a
      (fun w v => shiftLeftAt w v (operandValue .second (nextIp [a, b] s) b s).toNat) s := rfl

theorem exec_sr : exec (.sr a b) s =
    modifyLocation (nextIp [a, b] s) a
      (fun w v => shiftRightAt w v (operandValue .second (nextIp [a, b] s) b s).toNat) s := rfl

theorem exec_rol : exec (.rol a b) s =
    modifyLocation (nextIp [a, b] s) a
      (fun w v => rotateLeftAt w v (operandValue .second (nextIp [a, b] s) b s).toNat) s := rfl

theorem exec_ror : exec (.ror a b) s =
    modifyLocation (nextIp [a, b] s) a
      (fun w v => rotateRightAt w v (operandValue .second (nextIp [a, b] s) b s).toNat) s := rfl

end Meanings

/-- Settles O39: what is written is `shiftLeftAt` and `shiftRightAt` of the location, known bit by bit. -/
theorem shiftsMoveEveryBit : Obligations.ShiftsMoveEveryBit := by
  intro a b s l hl npc n w v
  have width : w = 8 ∨ w = 16 := locationWidth_eq l
  have bound : v.toNat < 2 ^ w := readLocation_lt l s
  exact ⟨⟨_, getLsbD_shiftLeftAt width v n, modifyLocation_writes (exec_sl a b s) hl rfl⟩,
    ⟨_, getLsbD_shiftRightAt width bound n, modifyLocation_writes (exec_sr a b s) hl rfl⟩⟩

/-- Settles O40: what is written is `rotateLeftAt` and `rotateRightAt` of the location, known bit by bit. -/
theorem rotatesTurnEveryBit : Obligations.RotatesTurnEveryBit := by
  intro a b s l hl npc n w v
  have width : w = 8 ∨ w = 16 := locationWidth_eq l
  have bound : v.toNat < 2 ^ w := readLocation_lt l s
  exact ⟨⟨_, getLsbD_rotateLeftAt width bound n, modifyLocation_writes (exec_rol a b s) hl rfl⟩,
    ⟨_, getLsbD_rotateRightAt width bound n, modifyLocation_writes (exec_ror a b s) hl rfl⟩⟩

end Sys2Proof.Machine

/-! Proofs about data movement (spec 42_data_movement.md): what is left after a location is written, after a word is
stored and after a push, and the five instructions LD, MOV, ST, PUSH and POP in those terms. -/

namespace Sys2Proof.Machine

/-! ## Writes and what comes around them -/

theorem OnlyChanges.refl (ps : List Part) (s : State) : OnlyChanges ps s s := fun p _ => p.same_refl s

theorem setSp_onlyChanges (v : Word) (s : State) : OnlyChanges [.sp] s (s.setSp v) := by
  intro p hp
  have kept := p.same_refl s
  cases p <;> simp at hp <;> exact kept

theorem writeWord_onlyChanges (a v : Word) (s : State) : OnlyChanges [.mem] s (writeWord a v s) := by
  intro p hp
  have kept := p.same_refl s
  cases p <;> simp at hp <;> exact kept

/-- A word reads the same where every byte of memory does. -/
theorem readWord_of_mem_same {s t : State} (h : Part.mem.same s t) (a : Word) : readWord a t = readWord a s := by
  rw [readWord, readWord, h a, h (a + 1)]

/-- SP is the one register of its piece of state. -/
theorem regPart_eq_sp_iff (r : Reg) : regPart r = .sp ↔ r = .sp := by
  cases r <;> simp [regPart]

/-- A half of a general register is no part of SP. -/
theorem regPart_half_notMem_sp {r half : Reg} (hr : otherHalf r = some half) : regPart half ∉ [Part.sp] := by
  cases r <;> simp [otherHalf] at hr <;> subst hr <;> decide

/-- A location written after IP has moved on, and pieces of state changed later of which neither IP, memory nor a half
of a general register is one. -/
theorem writeLocation_then {l : Location} {v npc : Word} {s t u : State} {later : List Part}
    (h : writeLocation l v (s.setIp npc) = .ok t) (hu : OnlyChanges later t u)
    (hip : Part.ip ∉ later) (hmem : Part.mem ∉ later)
    (hhalf : ∀ r half, otherHalf r = some half → regPart half ∉ later) : AfterWrite later l v npc s u := by
  have moved := setIp_onlyChanges npc s
  have after := writeLocation_after h
  have sameIp : u.ip = t.ip := hu .ip hip
  cases l with
  | reg r =>
    obtain ⟨hread, hnpc, hother, honly⟩ := after
    refine ⟨fun hr => ?_, fun hr => sameIp.trans (hnpc hr), fun half hr => ?_,
      ((moved.trans honly).trans hu).relist fun p hp hout => ?_⟩
    · rw [readReg_congr (hu _ hr), hread List.not_mem_nil]
    · obtain ⟨notIp, -⟩ := regPart_of_otherHalf hr
      rw [readReg_congr (hu _ (hhalf r half hr)), hother half hr, readReg_congr (moved _ notIp)]
    · simp at hp hout
      tauto
  | mem a =>
    obtain ⟨hread, hout, hnpc, honly⟩ := after
    have sameMem := hu .mem hmem
    refine ⟨(readWord_of_mem_same sameMem a).trans hread, fun x h1 h2 => (sameMem x).trans (hout x h1 h2),
      sameIp.trans hnpc, ((moved.trans honly).trans hu).relist fun p hp hout => ?_⟩
    simp at hp hout
    tauto

/-- A location written after IP has moved on, and nothing later. -/
theorem writeLocation_moved {l : Location} {v npc : Word} {s t : State}
    (h : writeLocation l v (s.setIp npc) = .ok t) : AfterWrite [] l v npc s t :=
  writeLocation_then h (.refl [] t) List.not_mem_nil List.not_mem_nil fun _ _ _ => List.not_mem_nil

/-- All that an instruction which ends in the write of a location does: the refusal of FL and IID, or the write. -/
theorem writeLocation_writes {i : Instr} {l : Location} {v npc : Word} {s : State}
    (hexec : exec i s = conclude s (writeLocation l v (s.setIp npc))) : WritesLocation i [] l v npc s := by
  refine ⟨fun hrefused => ?_, fun hfl hiid => ?_⟩
  · rw [hexec, writeLocation_refused hrefused, conclude_refuse]
  · obtain ⟨t, ht⟩ := writeLocation_ok hfl hiid v (s.setIp npc)
    exact ⟨t, by rw [hexec, ht, conclude_ok], writeLocation_moved ht⟩

/-- A word stored, and IP then moved on, in a state that differs in `before` alone. -/
theorem writeWord_setIp_after {before : List Part} {s u : State} (h : OnlyChanges before s u)
    (hmem : Part.mem ∉ before) (a v npc : Word) :
    AfterWrite before (.mem a) v npc s ((writeWord a v u).setIp npc) := by
  refine ⟨readWord_writeWord a v u, fun x h1 h2 => (writeWord_memSameOutside a v u x h1 h2).trans (h .mem hmem x), rfl,
    ((h.trans (writeWord_onlyChanges a v u)).trans (setIp_onlyChanges npc _)).relist fun p hp hout => ?_⟩
  simp at hp hout
  tauto

/-! ## The stack -/

/-- All that an instruction which pushes and then goes on at `target` does (R170). -/
theorem push_pushesAndGoesTo {i : Instr} {v target : Word} {s : State}
    (hexec : exec i s = conclude s ((push v s).map fun t => t.setIp target)) : PushesAndGoesTo i v target s := by
  refine ⟨fun hzero => ?_, fun hodd => ?_, fun hne heven => ?_⟩
  · rw [hexec, push_zero hzero]
    rfl
  · rw [hexec, push_odd hodd]
    rfl
  · rw [push_even hne heven] at hexec
    exact ⟨_, hexec, rfl, writeWord_setIp_after (setSp_onlyChanges _ s) (by decide) _ v target⟩

/-- SP after a location is written: the value where SP is the location, else SP as it was. -/
theorem AfterWrite.sp_eq {l : Location} {v npc : Word} {s t : State} (h : AfterWrite [] l v npc s t) :
    t.sp = if l = .reg .sp then v else s.sp := by
  cases l with
  | reg r =>
    obtain ⟨hread, -, -, honly⟩ := h
    by_cases hr : r = .sp
    · subst hr
      rw [if_pos rfl, ← lowBits_16 v]
      exact hread List.not_mem_nil
    · have notSp : Part.sp ≠ regPart r := fun e => hr ((regPart_eq_sp_iff r).mp e.symm)
      rw [if_neg (by simpa using hr)]
      exact honly .sp (by simp [notSp])
  | mem a =>
    obtain ⟨-, -, -, honly⟩ := h
    exact honly .sp (by decide)

/-- Settles O51: both pop, and the pop is refused. -/
theorem returnsWithOddSpAreRefused : Obligations.ReturnsWithOddSpAreRefused := by
  intro s hodd
  constructor
  · simp only [exec, execRet, pop_odd hodd]
    rfl
  · simp only [exec, execIret, returnFromInterrupt_odd hodd, conclude_refuse]

/-! ## LD, MOV, ST, PUSH, POP -/

/-- Settles O41: with a register as its destination LD ends in the write of that register. -/
theorem ldLoadsARegister : Obligations.LdLoadsARegister := by
  intro rel r b s npc
  exact writeLocation_writes (i := .ld (.reg .plain rel r) b) (l := .reg r) rfl

/-- Class VI is the plain operands (30_encoding.md R102). -/
theorem fits_VI_iff (a : Operand) : a.fits .VI = true ↔ operandForm a = .plain := by
  cases a <;> simp [Operand.fits, OperandClass.accepts, operandForm]

theorem exec_mov {a : Operand} (hfits : a.fits .VI = true) (b : Operand) (s : State) :
    exec (.mov a b) s = moveToRegister (nextIp [a, b] s) b (operandRaw a s) s := by
  simp only [exec, execMov, if_pos hfits, operandValue_plain _ _ _ ((fits_VI_iff a).mp hfits)]

/-- Settles O42: the source is an operand of class VI, whose value is the operand itself. -/
theorem movMovesToARegister : Obligations.MovMovesToARegister := by
  intro a rel r s hfits
  exact writeLocation_writes (l := .reg r) (exec_mov hfits (.reg .plain rel r) s)

theorem exec_st {a b : Operand} {s : State} {addr : Word}
    (hl : operandLocation .second (nextIp [a, b] s) b s = some (.mem addr)) :
    exec (.st a b) s =
      .next ((writeWord addr (operandValue .first (nextIp [a, b] s) a s) s).setIp (nextIp [a, b] s)) := by
  simp only [exec, execSt, hl]

/-- Settles O43: ST is one stored word and a move of IP. -/
theorem stStoresAWord : Obligations.StStoresAWord := by
  intro a b s addr hl
  exact ⟨_, exec_st hl, writeWord_setIp_after (.refl [] s) List.not_mem_nil addr _ _⟩

/-- Settles O44: the operand is resolved in the state before the push. -/
theorem pushStoresBelowSp : Obligations.PushStoresBelowSp := by
  intro a s
  exact push_pushesAndGoesTo rfl

theorem exec_pop {a : Operand} {s : State} {l : Location} (hl : operandLocation .first (nextIp [a] s) a s = some l) :
    exec (.pop a) s =
      conclude s ((writeLocation l (loadWord .stack s.sp s) (s.setIp (nextIp [a] s))).bind fun t =>
        (checkEvenSp s).map fun _ => t.setSp (t.sp + 2)) := by
  simp only [exec, execPop, hl]

/-- Settles O45: the write of the location comes first, with its refusal, then the check of SP, and SP moves on from
what the write has left in it. -/
theorem popWritesThenMovesSp : Obligations.PopWritesThenMovesSp := by
  intro a s l hl
  have hexec := exec_pop hl
  refine ⟨fun hrefused => ?_, fun hfl hiid hodd => ?_, fun hfl hiid heven => ?_⟩
  · rw [hexec, writeLocation_refused hrefused]
    rfl
  · obtain ⟨t, ht⟩ := writeLocation_ok hfl hiid (loadWord .stack s.sp s) (s.setIp (nextIp [a] s))
    rw [hexec, ht, checkEvenSp_odd hodd]
    rfl
  · obtain ⟨t, ht⟩ := writeLocation_ok hfl hiid (loadWord .stack s.sp s) (s.setIp (nextIp [a] s))
    rw [ht, checkEvenSp_even heven] at hexec
    have written := writeLocation_then ht (setSp_onlyChanges (t.sp + 2) t) (by decide) (by decide)
      fun _ _ => regPart_half_notMem_sp
    exact ⟨_, hexec, written, congrArg (· + 2) (writeLocation_moved ht).sp_eq⟩

end Sys2Proof.Machine

/-! Proofs about control flow (spec 43_control_flow.md): the conditions of the jumps as statements about flags, what a
jump does when its condition is one, what the flags of a difference say of the order of the two words, and CALL and RET
through the stack. -/

namespace Sys2Proof.Machine

/-! ## Conditions of the jumps -/

section Conditions

variable (fl : Word)

theorem condG_iff : condG fl = true ↔ getFlag .zf fl = false ∧ getFlag .nf fl = getFlag .of fl := by simp [condG]

theorem condGe_iff : condGe fl = true ↔ getFlag .nf fl = getFlag .of fl := by simp [condGe]

theorem condL_iff : condL fl = true ↔ getFlag .nf fl ≠ getFlag .of fl := by simp [condL]

theorem condLe_iff : condLe fl = true ↔ getFlag .zf fl = true ∨ getFlag .nf fl ≠ getFlag .of fl := by simp [condLe]

theorem condNz_iff : condNz fl = true ↔ getFlag .zf fl = false := by simp [condNz]

theorem condNc_iff : condNc fl = true ↔ getFlag .cf fl = false := by simp [condNc]

theorem condNs_iff : condNs fl = true ↔ getFlag .nf fl = false := by simp [condNs]

end Conditions

/-! ## Jumps -/

/-- A jump to the operand `a` taken exactly when `cond` holds, which changes IP alone. -/
def JumpsWhen (i : Instr) (a : Operand) (s : State) (cond : Prop) : Prop :=
  CompletesWith i s fun t =>
    (cond → t.ip = operandValue .first (nextIp [a] s) a s) ∧ (¬ cond → t.ip = nextIp [a] s) ∧ OnlyChanges [.ip] s t

section Jumps

variable {i : Instr} {a : Operand} {s : State} {b : Bool} {cond taken : Prop}

/-- The one rule of all eleven jumps: `jumpIf` on a test of the flags that says what `cond` does. -/
theorem jumpIf_jumpsWhen (hexec : exec i s = jumpIf b a s) (hcond : b = true ↔ cond) : JumpsWhen i a s cond :=
  ⟨_, hexec, fun h => if_pos (hcond.mpr h), fun h => if_neg (mt hcond.mp h), setIp_onlyChanges _ s⟩

theorem JumpsWhen.congr (h : JumpsWhen i a s cond) (hcond : cond ↔ taken) : JumpsWhen i a s taken :=
  propext hcond ▸ h

theorem JumpsWhen.goes (h : JumpsWhen i a s cond) : ∃ u, exec i s = .next u ∧
    (cond → u.ip = operandValue .first (nextIp [a] s) a s) ∧ (¬ cond → u.ip = nextIp [a] s) := by
  obtain ⟨u, hexec, htaken, hnot, -⟩ := h
  exact ⟨u, hexec, htaken, hnot⟩

end Jumps

/-- Settles O46: a jump whose condition always holds. -/
theorem jmpGoesToItsOperand : Obligations.JmpGoesToItsOperand := by
  intro a s
  have jumps : JumpsWhen (.jmp a) a s True := jumpIf_jumpsWhen rfl (iff_true_intro rfl)
  exact jumps.imp fun t ⟨htaken, _, honly⟩ => ⟨htaken trivial, honly⟩

/-- Settles O47: `jumpIf` with the condition of each. -/
theorem conditionalJumpsTestTheirFlags : Obligations.ConditionalJumpsTestTheirFlags := by
  intro a s zf nf of cf jumps
  exact ⟨jumpIf_jumpsWhen rfl Iff.rfl, jumpIf_jumpsWhen rfl (condG_iff s.fl), jumpIf_jumpsWhen rfl (condGe_iff s.fl),
    jumpIf_jumpsWhen rfl (condL_iff s.fl), jumpIf_jumpsWhen rfl (condLe_iff s.fl), jumpIf_jumpsWhen rfl Iff.rfl,
    jumpIf_jumpsWhen rfl Iff.rfl, jumpIf_jumpsWhen rfl (condNz_iff s.fl), jumpIf_jumpsWhen rfl (condNc_iff s.fl),
    jumpIf_jumpsWhen rfl (condNs_iff s.fl)⟩

/-- Settles O53: an instruction of two bytes and nothing but the move of IP. -/
theorem nopChangesIpAlone : Obligations.NopChangesIpAlone := by
  intro s
  exact ⟨_, rfl, rfl, setIp_onlyChanges _ s⟩

/-! ## The order of two words in the flags of their difference -/

/-- A word has bit 15 set exactly when it is negative. -/
theorem getLsbD_15_iff (w : Word) : w.getLsbD 15 = true ↔ w.toInt < 0 := by
  have : w.msb = decide (w.toInt < 0) := BitVec.msb_eq_toInt
  rw [← decide_eq_true_iff (p := w.toInt < 0), ← this, BitVec.msb_eq_getLsbD_last]

/-- The sign of a difference disagrees with its overflow exactly when the minuend is the lesser: where the exact
difference does not fit, the stored one has the other sign. -/
theorem nf_eq_of_subFlags (a b fl : Word) :
    getFlag .nf (subFlags a b fl).2 = getFlag .of (subFlags a b fl).2 ↔ b.toInt ≤ a.toInt := by
  have aBelow : a.toInt < 2 ^ 15 := BitVec.toInt_lt
  have aAbove : -2 ^ 15 ≤ a.toInt := BitVec.le_toInt a
  have bBelow : b.toInt < 2 ^ 15 := BitVec.toInt_lt
  have bAbove : -2 ^ 15 ≤ b.toInt := BitVec.le_toInt b
  have hdiff : (a - b).toInt = (a.toInt - b.toInt).bmod (2 ^ 16) := BitVec.toInt_sub
  rw [Bool.eq_iff_iff, getFlag_nf_subFlags, getLsbD_15_iff, getFlag_of_subFlags, hdiff, Int.bmod_def]
  omega

/-- What the flags after `y - x` say of the order of `y` and `x` (43_control_flow.md R202). -/
structure FlagsCompare (x y fl : Word) : Prop where
  equal : getFlag .zf fl = true ↔ y = x
  signed : getFlag .nf fl = getFlag .of fl ↔ x.toInt ≤ y.toInt
  unsigned : getFlag .cf fl = true ↔ y.toNat < x.toNat
  sign : getFlag .nf fl = (y - x).getLsbD 15

theorem subFlags_compare (x y fl : Word) : FlagsCompare x y (subFlags y x fl).2 :=
  ⟨getFlag_zf_subFlags .., nf_eq_of_subFlags .., getFlag_cf_subFlags .., getFlag_nf_subFlags ..⟩

section Compared

variable {x y fl : Word} (h : FlagsCompare x y fl)

include h

theorem FlagsCompare.different : getFlag .zf fl = false ↔ y ≠ x := by
  rw [← Bool.not_eq_true, h.equal]

theorem FlagsCompare.signedLess : getFlag .nf fl ≠ getFlag .of fl ↔ y.toInt < x.toInt := by
  rw [ne_eq, h.signed, not_le]

theorem FlagsCompare.signedGreater :
    getFlag .zf fl = false ∧ getFlag .nf fl = getFlag .of fl ↔ x.toInt < y.toInt := by
  rw [h.different, h.signed, and_comm, lt_iff_le_and_ne, ne_comm, Ne, Ne, BitVec.toInt_inj]

theorem FlagsCompare.signedLessEqual :
    getFlag .zf fl = true ∨ getFlag .nf fl ≠ getFlag .of fl ↔ y.toInt ≤ x.toInt := by
  rw [h.equal, h.signedLess, or_comm, le_iff_lt_or_eq, BitVec.toInt_inj]

theorem FlagsCompare.unsignedNotBelow : getFlag .cf fl = false ↔ x.toNat ≤ y.toNat := by
  rw [← Bool.not_eq_true, h.unsigned, not_lt]

end Compared

/-- CMP, and SUB from ACL, complete with the flags of the difference in FL. -/
theorem difference_completes {i : Instr} {x y : Word} {s : State}
    (h : (∃ a b, i = .cmp a b ∧ x = operandValue .first (nextIp [a, b] s) a s ∧
        y = operandValue .second (nextIp [a, b] s) b s) ∨
      (∃ a, i = .sub a ∧ x = operandValue .first (nextIp [a] s) a s ∧ y = s.acl)) :
    CompletesWith i s fun t => t.fl = (subFlags y x s.fl).2 := by
  obtain ⟨a, b, rfl, rfl, rfl⟩ | ⟨a, rfl, rfl, rfl⟩ := h
  · exact (compareOnly_completes (i := .cmp a b) rfl).imp fun t ⟨hfl, _⟩ => hfl
  · exact (accumulate_completes (i := .sub a) rfl).imp fun t ⟨_, hfl, _⟩ => hfl

/-- Settles O48: the conditions of the ten jumps, on the flags that CMP and SUB leave. -/
theorem jumpsAfterCompareReadTheOrder : Obligations.JumpsAfterCompareReadTheOrder := by
  intro i x y s h
  obtain ⟨t, hexec, hfl⟩ := difference_completes h
  have order : FlagsCompare x y t.fl := hfl ▸ subFlags_compare x y s.fl
  refine ⟨t, hexec, fun c => ?_⟩
  obtain ⟨jz, jg, jge, jl, jle, jc, js, jnz, jnc, jns⟩ := conditionalJumpsTestTheirFlags c t
  exact ⟨(JumpsWhen.congr jz order.equal).goes, (JumpsWhen.congr jnz order.different).goes,
    (JumpsWhen.congr jg order.signedGreater).goes, (JumpsWhen.congr jge order.signed).goes,
    (JumpsWhen.congr jl order.signedLess).goes, (JumpsWhen.congr jle order.signedLessEqual).goes,
    (JumpsWhen.congr jc order.unsigned).goes, (JumpsWhen.congr jnc order.unsignedNotBelow).goes,
    (JumpsWhen.congr js (order.sign ▸ Iff.rfl)).goes, (JumpsWhen.congr jns (order.sign ▸ Iff.rfl)).goes⟩

/-! ## CALL and RET -/

/-- Settles O49: CALL is a push of the next address; its target is resolved in the state before it. -/
theorem callPushesTheNextAddress : Obligations.CallPushesTheNextAddress := by
  intro a s
  exact push_pushesAndGoesTo rfl

theorem exec_ret {s : State} (heven : s.sp.getLsbD 0 = false) :
    exec .ret s = .next ((s.setSp (s.sp + 2)).setIp (loadWord .stack s.sp s)) := by
  simp only [exec, execRet, pop_even heven]
  rfl

/-- Settles O50: the pop of an even SP, with IP as the popped word. -/
theorem retPopsIp : Obligations.RetPopsIp := by
  intro s heven
  exact ⟨_, exec_ret heven, rfl, rfl, (setSp_onlyChanges _ s).trans (setIp_onlyChanges _ _) |>.relist (by simp)⟩

theorem setMemAnswers_onlyChanges (l : List MemAnswer) (s : State) :
    OnlyChanges [.memAnswers] s (s.setMemAnswers l) := by
  intro p hp
  have kept := p.same_refl s
  cases p <;> simp at hp <;> exact kept

/-- Two less is as even. -/
theorem getLsbD_zero_sub_two (w : Word) : (w - 2).getLsbD 0 = w.getLsbD 0 := by
  have parity : (w - 2).toNat % 2 = w.toNat % 2 := by bv_omega
  rw [BitVec.getLsbD, BitVec.getLsbD, Nat.testBit_zero, Nat.testBit_zero, parity]

/-- Settles O52: the word CALL leaves at its SP is the word RET loads there, since the environment does not answer that
load, and the two moves of SP cancel. -/
theorem returnAfterCallComesBack : Obligations.ReturnAfterCallComesBack := by
  intro a s hne heven
  obtain ⟨-, -, calls⟩ := callPushesTheNextAddress a s
  obtain ⟨t, hcall, hsp, hword, hout, -, called⟩ := calls hne heven
  refine ⟨t, hcall, fun answers hanswers => ?_⟩
  have evenSp : (t.setMemAnswers answers).sp.getLsbD 0 = false := by
    rw [State.setMemAnswers_sp, hsp, getLsbD_zero_sub_two, heven]
  have popped : loadWord .stack t.sp (t.setMemAnswers answers) = nextIp [a] s := by
    have second : s.sp - 2 + 1 = s.sp - 1 := by bv_omega
    rw [hsp, loadWord_of_noAnswer (second ▸ hanswers), ← hword]
    exact readWord_congr rfl _
  have spBack : t.sp + 2 = s.sp := by rw [hsp, sub_add_cancel]
  refine (retPopsIp (t.setMemAnswers answers) evenSp).imp fun u ⟨hip, husp, returned⟩ => ?_
  have spSame : u.sp = s.sp := husp.trans spBack
  have frame := (called.trans (setMemAnswers_onlyChanges answers t)).trans returned
  refine ⟨hip.trans popped, spSame, fun x h1 h2 => ?_, frame.relist fun p hp hnot => ?_⟩
  · exact (returned .mem (by decide) x).trans (hout x h1 h2)
  · have : p = .sp := by simp at hp hnot; tauto
    exact this ▸ spSame

end Sys2Proof.Machine

/-! Proofs about I/O (spec 44_io.md): a block of units received or sent, by induction on the number of units, and IN and
OUT as blocks of one unit. -/

namespace Sys2Proof.Machine

/-! ## Units received -/

theorem ioRead_ioLog (a : Word) (s : State) : (ioRead a s).2.ioLog = s.ioLog ++ [.read a (ioRead a s).1] := by
  obtain ⟨w, l, d, h⟩ := ioRead_frame a s
  rw [h]

/-- Where an answer is scripted, the unit is the first one, and it is taken. -/
theorem ioRead_takesAnswer {s : State} (h : s.ioAnswers ≠ []) (a : Word) :
    s.ioAnswers = (ioRead a s).1 :: (ioRead a s).2.ioAnswers := by
  obtain ⟨w, l, hs⟩ := List.exists_cons_of_ne_nil h
  simp [ioRead_scripted hs, hs]

/-- The first unit of a block is at `io`, and the others are a block from `io + 1` on (44_io.md R210). -/
theorem mapIdx_cons_address (event : Word → Word → IoEvent) (io w : Word) (ws : List Word) :
    (w :: ws).mapIdx (fun k v => event (io + BitVec.ofNat 16 k) v) =
      event io w :: ws.mapIdx fun k v => event (io + 1 + BitVec.ofNat 16 k) v := by
  have later (k : Nat) : io + BitVec.ofNat 16 (k + 1) = io + 1 + BitVec.ofNat 16 k := by
    rw [BitVec.add_assoc, BitVec.add_comm 1, BitVec.ofNat_add]
    rfl
  rw [List.mapIdx_cons, BitVec.add_zero]
  simp_rw [← later]

/-- `t` is `s` after the units `ws` were read from the I/O addresses `io`, `io + 1`, … and each stored in the word at `d`
(44_io.md R206, R208). -/
structure Received (ws : List Word) (io d : Word) (s t : State) : Prop where
  log : t.ioLog = s.ioLog ++ ws.mapIdx fun k w => .read (io + BitVec.ofNat 16 k) w
  answers : ws.length ≤ s.ioAnswers.length → s.ioAnswers = ws ++ t.ioAnswers
  word : readWord d t = ws.getLastD (readWord d s)
  outside : MemSameOutside d s t
  only : OnlyChanges [.mem, .ioLog, .ioAnswers, .draws] s t
  nothing : ws = [] → t = s

theorem Received.refl (io d : Word) (s : State) : Received [] io d s s where
  log := (List.append_nil _).symm
  answers _ := rfl
  word := rfl
  outside _ _ _ := rfl
  only := .refl _ s
  nothing _ := rfl

/-- A block is its first unit, read and stored, and then the block of the others. -/
theorem Received.cons {ws : List Word} {io d : Word} {s t : State}
    (h : Received ws (io + 1) d (writeWord d (ioRead io s).1 (ioRead io s).2) t)
    (hout : MemSameOutside d s t) (honly : OnlyChanges [.mem, .ioLog, .ioAnswers, .draws] s t) :
    Received ((ioRead io s).1 :: ws) io d s t where
  log := by
    rw [h.log, mapIdx_cons_address]
    exact (congrArg (· ++ _) (ioRead_ioLog io s)).trans (List.append_assoc ..)
  answers hlen := by
    have taken := ioRead_takesAnswer (s := s) (fun hnil => by simp [hnil] at hlen) io
    have later : ws.length ≤ (ioRead io s).2.ioAnswers.length := by
      rw [taken] at hlen
      exact Nat.le_of_succ_le_succ hlen
    exact taken.trans (congrArg (_ :: ·) (h.answers later))
  word := by rw [h.word, readWord_writeWord, List.getLastD_cons]
  outside := hout
  only := honly
  nothing := nofun

/-- Receiving `n` units in memory completes, with `n` units received. -/
theorem receiveUnits_received (n : Nat) (io d : Word) (s : State) :
    ∃ ws t, ws.length = n ∧ receiveUnits n io (.mem d) s = .ok t ∧ Received ws io d s t := by
  induction n generalizing io s with
  | zero => exact ⟨[], s, rfl, rfl, .refl io d s⟩
  | succ n ih =>
    obtain ⟨ws, t, hlen, ht, units⟩ := ih (io + 1) (writeWord d (ioRead io s).1 (ioRead io s).2)
    have hrun : receiveUnits (n + 1) io (.mem d) s = .ok t := (receiveUnits_succ n io d s).trans ht
    obtain ⟨t', ht', hout, -, honly⟩ := receiveUnits_frame (n + 1) io d s
    obtain rfl : t = t' := Except.ok.inj (hrun.symm.trans ht')
    exact ⟨_, t, congrArg (· + 1) hlen, hrun, units.cons hout honly⟩

/-- An instruction that ends in `receive` completes with `count` units received after IP has moved on. -/
theorem receive_completes {i : Instr} {count : Nat} {a b : Operand} {s : State} (hexec : exec i s = receive count a b s) :
    CompletesWith i s fun t => ∃ ws : List Word, ws.length = count ∧
      Received ws (operandValue .first (nextIp [a, b] s) a s) (operandValue .second (nextIp [a, b] s) b s)
        (s.setIp (nextIp [a, b] s)) t := by
  obtain ⟨ws, t, hlen, ht, units⟩ := receiveUnits_received count (operandValue .first (nextIp [a, b] s) a s)
    (operandValue .second (nextIp [a, b] s) b s) (s.setIp (nextIp [a, b] s))
  simp only [receive, unitTarget_eq, ht, conclude_ok] at hexec
  exact ⟨t, hexec, ws, hlen, units⟩

/-! ## IN and BIN -/

/-- Settles O57: IN receives a block of one unit. -/
theorem inStoresOneUnit : Obligations.InStoresOneUnit := by
  intro a b s
  refine (receive_completes (count := 1) rfl).imp fun t ⟨ws, hlen, units⟩ => ?_
  obtain ⟨w, rfl⟩ := List.length_eq_one_iff.mp hlen
  have frame := (setIp_onlyChanges _ s).trans units.only
  refine ⟨w, ?_, fun w' rest hs => ?_, units.word, units.outside, units.only .ip (by decide), frame.relist (by simp)⟩
  · simpa using units.log
  · have taken : w' :: rest = w :: t.ioAnswers := hs.symm.trans (units.answers (by simp [hs]))
    obtain ⟨hw, hrest⟩ := List.cons.inj taken
    exact ⟨hw.symm, hrest.symm⟩

/-- Settles O59: BIN receives a block of AL units. -/
theorem binReadsAlUnits : Obligations.BinReadsAlUnits := by
  intro a b s
  refine (receive_completes rfl).imp fun t ⟨ws, hlen, units⟩ => ?_
  have frame := (setIp_onlyChanges _ s).trans units.only
  refine ⟨ws, hlen.trans (toNat_loByte s.acl), units.log, units.answers, fun w hw => ?_, units.outside,
    units.only .ip (by decide), fun hnone => ?_, frame.relist (by simp)⟩
  · rw [units.word, List.getLastD_eq_getLast?, hw, Option.getD_some]
  · exact units.nothing hnone ▸ setIp_onlyChanges _ s

/-! ## Units sent -/

theorem sendUnits_onlyChanges (ws : List Word) (io : Word) (s : State) :
    OnlyChanges [.ioLog] s (sendUnits ws io s) := by
  rw [sendUnits_eq]
  intro p hp
  have kept := p.same_refl s
  cases p <;> simp at hp <;> exact kept

/-- An instruction that sends the units `ws` and moves IP on records one output event for each, at successive addresses,
and changes nothing else. -/
theorem sendUnits_completes {i : Instr} {ws : List Word} {io npc : Word} {s : State}
    (hexec : exec i s = .next ((sendUnits ws io s).setIp npc)) :
    CompletesWith i s fun t =>
      t.ioLog = s.ioLog ++ ws.mapIdx (fun k w => .write (io + BitVec.ofNat 16 k) w) ∧ t.ip = npc ∧
        OnlyChanges [.ioLog, .ip] s t := by
  refine ⟨_, hexec, ?_, rfl, (sendUnits_onlyChanges ws io s).trans (setIp_onlyChanges npc _)⟩
  rw [State.setIp_ioLog, sendUnits_eq]

/-! ## OUT and BOT -/

/-- OUT sends a block of one unit. -/
theorem exec_out (a b : Operand) (s : State) :
    exec (.out a b) s =
      .next ((sendUnits [loadWord (.unit 0) (operandValue .first (nextIp [a, b] s) a s) s]
        (operandValue .second (nextIp [a, b] s) b s) s).setIp (nextIp [a, b] s)) := by
  simp only [exec, execOut, unitDatum_eq, sendUnits]

theorem exec_bot (a b : Operand) (s : State) :
    exec (.bot a b) s =
      .next ((sendUnits ((List.range (s.acl.toNat % 256)).map fun k =>
          loadWord (.unit k) (operandValue .second (nextIp [a, b] s) b s) s)
        (operandValue .first (nextIp [a, b] s) a s) s).setIp (nextIp [a, b] s)) := by
  simp only [exec, execBot, unitDatum_eq, toNat_loByte]

/-- Settles O58: the one unit of the block goes to the address itself. -/
theorem outSendsOneUnit : Obligations.OutSendsOneUnit := by
  intro a b s
  refine (sendUnits_completes (exec_out a b s)).imp fun t ⟨hlog, hip, honly⟩ => ⟨?_, hip, honly⟩
  simpa using hlog

/-- Settles O60: the `k`-th unit of the block is the `k`-th load. -/
theorem botSendsAlUnits : Obligations.BotSendsAlUnits := by
  intro a b s
  refine (sendUnits_completes (exec_bot a b s)).imp fun t ⟨hlog, hip, honly⟩ => ⟨hlog.trans ?_, hip, honly⟩
  exact congrArg (s.ioLog ++ ·) (List.ext_getElem (by simp) (by simp))

end Sys2Proof.Machine

/-! Proofs about flags and interrupts (spec 45_flags_system.md): the one rule of the ten flag instructions, what an
interrupt entry and a return from one leave, and INT and IRET in those terms. -/

namespace Sys2Proof.Machine

/-! ## Frames of FL and IID -/

theorem setFl_onlyChanges (v : Word) (s : State) : OnlyChanges [.fl] s (s.setFl v) := by
  intro p hp
  have kept := p.same_refl s
  cases p <;> simp at hp <;> exact kept

theorem setIid_onlyChanges (v : Word) (s : State) : OnlyChanges [.iid] s (s.setIid v) := by
  intro p hp
  have kept := p.same_refl s
  cases p <;> simp at hp <;> exact kept

/-! ## The flag instructions -/

/-- An instruction that ends in `writeFlag` completes with the flag's bit written, and goes on after its two bytes. -/
theorem writeFlag_completes {i : Instr} {f : Flag} {b : Bool} {s : State} (hexec : exec i s = writeFlag f b s) :
    CompletesWith i s fun t => t.fl = putFlag f b s.fl ∧ t.ip = s.ip + 2 ∧ OnlyChanges [.fl, .ip] s t :=
  ⟨_, hexec, rfl, rfl, (setFl_onlyChanges _ s).trans (setIp_onlyChanges _ _)⟩

/-- Settles O54: each of the ten is `writeFlag` of its flag, whose bit is the one listed. -/
theorem flagInstructionsWriteOneBit : Obligations.FlagInstructionsWriteOneBit := by
  intro i f k b hmem s
  have row : exec i s = writeFlag f b s ∧ f.bit = k := by
    simp only [List.mem_cons, List.not_mem_nil, or_false, Prod.mk.injEq] at hmem
    obtain ⟨rfl, rfl, rfl, rfl⟩ | ⟨rfl, rfl, rfl, rfl⟩ | ⟨rfl, rfl, rfl, rfl⟩ | ⟨rfl, rfl, rfl, rfl⟩ |
      ⟨rfl, rfl, rfl, rfl⟩ | ⟨rfl, rfl, rfl, rfl⟩ | ⟨rfl, rfl, rfl, rfl⟩ | ⟨rfl, rfl, rfl, rfl⟩ |
      ⟨rfl, rfl, rfl, rfl⟩ | ⟨rfl, rfl, rfl, rfl⟩ := hmem <;> exact ⟨rfl, rfl⟩
  obtain ⟨hexec, rfl⟩ := row
  refine (writeFlag_completes hexec).imp fun t ⟨hfl, hip, honly⟩ => ⟨?_, ?_, fun j hj => ?_, hip, honly⟩
  · rw [hfl, getLsbD_putFlag, if_pos rfl]
  · rw [hfl, getFlag_putFlag, if_pos rfl]
  · rw [hfl, getLsbD_putFlag, if_neg hj]

/-! ## INT -/

/-- All that an interrupt entry leaves where the push is possible: the id in IID, one word stored at SP - 2, IE cleared,
and IP as the vector read after the push (60_exceptions.md R254). -/
theorem enterInterrupt_after {s : State} (hne : s.sp ≠ 0) (heven : s.sp.getLsbD 0 = false) (id ret : Word) :
    ∃ t, enterInterrupt id ret s = .ok t ∧ t.iid = id ∧ t.sp = s.sp - 2 ∧ t.fl = putFlag .ie false s.fl ∧
      AfterWrite [.iid, .sp, .fl] (.mem (s.sp - 2)) ret (loadWord .vector interruptVector t) s t := by
  have before : OnlyChanges [.iid, .sp] s ((s.setIid id).setSp (s.sp - 2)) :=
    (setIid_onlyChanges id s).trans (setSp_onlyChanges _ _)
  obtain ⟨hread, hout, hip, honly⟩ := writeWord_setIp_after before (by decide) (s.sp - 2) ret
    (loadWord .vector interruptVector (writeWord (s.sp - 2) ret ((s.setIid id).setSp (s.sp - 2))))
  exact ⟨_, enterInterrupt_even hne heven id ret, rfl, rfl, rfl, hread, hout,
    hip.trans (loadWord_congr rfl rfl _ _).symm, honly.trans (setFl_onlyChanges _ _)⟩

/-- INT of an immediate, which is of class I and four bytes long: the entry where IE is set, else the move of IP. -/
theorem exec_int (rel : Bool) (v : Word) (s : State) :
    exec (.int (.lit .plain rel v)) s =
      if getFlag .ie s.fl then conclude s (enterInterrupt v (s.ip + 4) s) else .next (s.setIp (s.ip + 4)) := by
  have hfits : (Operand.lit .plain rel v).fits .I = true := (fits_I_iff _).mpr ⟨rel, v, rfl⟩
  have hnext : nextIp [.lit .plain rel v] s = s.ip + 4 := rfl
  simp only [exec, execInt, if_pos hfits, operandValue_immediate, hnext]

theorem exec_int_masked {s : State} (hie : getFlag .ie s.fl = false) (rel : Bool) (v : Word) :
    exec (.int (.lit .plain rel v)) s = .next (s.setIp (s.ip + 4)) := by
  rw [exec_int, hie, if_neg Bool.false_ne_true]

theorem exec_int_unmasked {s : State} (hie : getFlag .ie s.fl = true) (rel : Bool) (v : Word) :
    exec (.int (.lit .plain rel v)) s = conclude s (enterInterrupt v (s.ip + 4) s) := by
  rw [exec_int, if_pos hie]

/-- Settles O55: the test of IE, then the three cases of the push inside the interrupt entry. -/
theorem intEntersTheInterrupt : Obligations.IntEntersTheInterrupt := by
  intro rel v s i
  refine ⟨fun hie => ?_, fun hie hzero => ?_, fun hie hodd => ?_, fun hie hne heven => ?_⟩
  · exact ⟨_, exec_int_masked hie rel v, rfl, setIp_onlyChanges _ s⟩
  · rw [exec_int_unmasked hie rel v, enterInterrupt_zero hzero, conclude_raise]
    rfl
  · rw [exec_int_unmasked hie rel v, enterInterrupt_odd hodd, conclude_refuse]
  · obtain ⟨t, hentry, hiid, hsp, hfl, hpushed⟩ := enterInterrupt_after hne heven v (s.ip + 4)
    have hexec : exec i s = .next t := by rw [exec_int_unmasked hie rel v, hentry, conclude_ok]
    have cleared : getFlag .ie t.fl = false := by rw [hfl, getFlag_putFlag, if_pos rfl]
    exact ⟨t, hexec, hiid, hsp, hpushed, cleared, flagWritersAreThoseListed _ _ _ hexec⟩

/-! ## IRET -/

theorem exec_iret {s : State} (heven : s.sp.getLsbD 0 = false) :
    exec .iret s =
      .next ((((s.setSp (s.sp + 2)).setIp (loadWord .stack s.sp s)).setFl (putFlag .ie true s.fl)).setIid 0) := by
  simp only [exec, execIret, returnFromInterrupt_even heven, conclude_ok]

/-- Settles O56: the pop of an even SP, with IP as the popped word. -/
theorem iretReturnsAndSetsIe : Obligations.IretReturnsAndSetsIe := by
  intro s heven
  have hexec := exec_iret heven
  have set : getFlag .ie (putFlag .ie true s.fl) = true := by rw [getFlag_putFlag, if_pos rfl]
  have frame := (((setSp_onlyChanges (s.sp + 2) s).trans (setIp_onlyChanges (loadWord .stack s.sp s) _)).trans
    (setFl_onlyChanges (putFlag .ie true s.fl) _)).trans (setIid_onlyChanges 0 _)
  exact ⟨_, hexec, set, rfl, rfl, rfl, flagWritersAreThoseListed _ _ _ hexec, frame.relist (by simp)⟩

end Sys2Proof.Machine

/-! Proofs about exceptions (spec 60_exceptions.md): the causes an instruction can raise, each with no other effect; the
decoder's exceptions; and what stands before the instruction at a boundary, the fault state, a masked request and an
accepted hardware interrupt. -/

namespace Sys2Proof

/-! ## Operands outside their class -/

theorem Instr.wellFormed_eq_false {i : Instr} {c : OperandClass} {a : Operand} (hmem : (c, a) ∈ i.form)
    (hfits : a.fits c = false) : i.wellFormed = false :=
  List.all_eq_false.mpr ⟨(c, a), hmem, by simp [hfits]⟩

/-- Class R is the plain registers (30_encoding.md R102). -/
theorem fits_R_iff (a : Operand) : a.fits .R = true ↔ ∃ rel r, a = .reg .plain rel r := by
  cases a <;> simp [Operand.fits, OperandClass.accepts]

end Sys2Proof

namespace Sys2Proof.Machine

/-- Class M is the operands in memory (30_encoding.md R102). -/
theorem fits_M_iff (a : Operand) : a.fits .M = true ↔ operandForm a ≠ .plain := by
  cases a <;> simp [Operand.fits, OperandClass.accepts, operandForm]

section Classes

variable {op : Operand} {k : OperandIndex} {npc : Word} {s : State}

/-- An operand that is no location is an immediate, which class L leaves out (30_encoding.md R102, R105). -/
theorem notFits_L_of_noLocation (h : operandLocation k npc op s = none) : ¬ op.fits .L = true := by
  cases op with
  | lit form rel v =>
    cases form with
    | plain => simp [Operand.fits, OperandClass.accepts]
    | direct | indirect => cases h
  | reg form rel r => cases form <;> cases h

/-- Every operand of class M is a word of memory (30_encoding.md R102, R105). -/
theorem exists_address_of_fits_M (h : op.fits .M = true) : ∃ addr, operandLocation k npc op s = some (.mem addr) := by
  have inMemory := (fits_M_iff op).mp h
  cases op with
  | lit form | reg form =>
    cases form with
    | plain => exact absurd rfl inMemory
    | direct | indirect => exact ⟨_, rfl⟩

end Classes

/-! ## What an instruction can raise -/

/-- The causes that executing `i` in `s` can raise: those of R243 and R248, and IllegalOperandMode (R246) for a term
that no bytes decode to (log 10). -/
inductive RaisedBy (i : Instr) (s : State) : Cause → Prop
  | divisor (a : Operand) (hi : i = .div a ∨ i = .idiv a) (hzero : operandValue .first (nextIp [a] s) a s = 0) :
      RaisedBy i s .divideByZero
  | stack (a : Operand) (hi : i = .push a ∨ i = .call a ∨ (i = .int a ∧ getFlag .ie s.fl = true))
      (hsp : s.sp = 0) : RaisedBy i s .stackOverflow
  | mode (hi : i.wellFormed = false) : RaisedBy i s .illegalOperandMode

/-- Where `i` answers a next state it keeps the fault mark, or that state is `s` with the mark of a cause that `i` can
raise, and nothing else of `s` is changed (60_exceptions.md R241, R258). -/
def Precise (i : Instr) (s : State) : Prop :=
  ∀ t, exec i s = .next t → t.fault = s.fault ∨ ∃ c, RaisedBy i s c ∧ t = s.setFault (some c)

/-- A location written is no change of the fault mark. -/
theorem AfterWrite.fault_eq {extra : List Part} {l : Location} {v npc : Word} {s t : State}
    (h : AfterWrite extra l v npc s t) (hextra : Part.fault ∉ extra) : t.fault = s.fault := by
  cases l with
  | reg r =>
    obtain ⟨-, -, -, honly⟩ := h
    have notReg : Part.fault ≠ regPart r := by cases r <;> decide
    exact honly .fault (by simp [notReg, hextra])
  | mem a =>
    obtain ⟨-, -, -, honly⟩ := h
    exact honly .fault (by simp [hextra])

section Precision

variable {i : Instr} {s : State}

theorem precise_of_next {t : State} (hexec : exec i s = .next t) (hfault : t.fault = s.fault) : Precise i s := by
  intro u hu
  rw [hexec] at hu
  cases hu
  exact .inl hfault

theorem precise_of_completes {P : State → Prop} (h : CompletesWith i s P) (hP : ∀ t, P t → t.fault = s.fault) :
    Precise i s := by
  obtain ⟨t, hexec, ht⟩ := h
  exact precise_of_next hexec (hP t ht)

theorem precise_of_raise {c : Cause} (hexec : exec i s = raise c s) (hc : RaisedBy i s c) : Precise i s := by
  intro u hu
  rw [hexec] at hu
  cases hu
  exact .inr ⟨c, hc, rfl⟩

theorem precise_of_refused {r : Refusal} (hexec : exec i s = .refused r) : Precise i s := by
  intro u hu
  rw [hexec] at hu
  cases hu

/-- An operand outside its class is IllegalOperandMode, which an instruction that bytes decode to cannot raise. -/
theorem precise_of_notFits {c : OperandClass} {a : Operand} (hexec : exec i s = raise .illegalOperandMode s)
    (hmem : (c, a) ∈ i.form) (hfits : ¬ a.fits c = true) : Precise i s :=
  precise_of_raise hexec (.mode (Instr.wellFormed_eq_false hmem (Bool.eq_false_iff.mpr hfits)))

theorem precise_of_writesLocation {extra : List Part} {l : Location} {v npc : Word}
    (h : WritesLocation i extra l v npc s) (hextra : Part.fault ∉ extra) : Precise i s := by
  obtain ⟨refused, written⟩ := h
  by_cases hl : l = .reg .fl ∨ l = .reg .iid
  · exact precise_of_refused (refused hl)
  · obtain ⟨hfl, hiid⟩ := not_or.mp hl
    exact precise_of_completes (written hfl hiid) fun t ht => ht.fault_eq hextra

/-- The three outcomes of an instruction that pushes: the exception at SP = 0, the refusal of an odd SP, completion. -/
theorem precise_of_push {r : Refusal} {P : State → Prop} (hraised : s.sp = 0 → RaisedBy i s .stackOverflow)
    (hzero : s.sp = 0 → exec i s = raise .stackOverflow s) (hodd : s.sp.getLsbD 0 = true → exec i s = .refused r)
    (heven : s.sp ≠ 0 → s.sp.getLsbD 0 = false → CompletesWith i s P) (hP : ∀ t, P t → t.fault = s.fault) :
    Precise i s := by
  by_cases h0 : s.sp = 0
  · exact precise_of_raise (hzero h0) (hraised h0)
  · cases hsp : s.sp.getLsbD 0
    · exact precise_of_completes (heven h0 hsp) hP
    · exact precise_of_refused (hodd hsp)

theorem precise_of_pushesAndGoesTo {v target : Word} (hraised : s.sp = 0 → RaisedBy i s .stackOverflow)
    (h : PushesAndGoesTo i v target s) : Precise i s := by
  obtain ⟨hzero, hodd, heven⟩ := h
  exact precise_of_push hraised hzero hodd heven fun t ⟨_, written⟩ => written.fault_eq (by decide)

/-! ## Shapes of meanings -/

theorem modifyLocation_precise {npc : Word} {a : Operand} {f : Nat → Word → Word}
    (hexec : exec i s = modifyLocation npc a f s) (hmem : (OperandClass.L, a) ∈ i.form) : Precise i s := by
  cases hl : operandLocation .first npc a s with
  | some l => exact precise_of_writesLocation (modifyLocation_writes hexec hl rfl) (by decide)
  | none =>
    simp only [modifyLocation, hl] at hexec
    exact precise_of_notFits hexec hmem (notFits_L_of_noLocation hl)

theorem modifyRegister_precise {npc : Word} {a : Operand} {f : Nat → Word → Word}
    (hexec : exec i s = modifyRegister npc a f s) (hmem : (OperandClass.R, a) ∈ i.form) : Precise i s := by
  by_cases hfits : a.fits .R = true
  · obtain ⟨rel, r, rfl⟩ := (fits_R_iff a).mp hfits
    have hmodify := hexec.trans (modifyRegister_register npc rel r f s)
    exact precise_of_writesLocation (modifyLocation_writes hmodify rfl rfl) (by decide)
  · exact precise_of_notFits (hexec.trans (if_neg hfits)) hmem hfits

theorem moveToRegister_notFits {dst : Operand} (h : ¬ dst.fits .R = true) (npc v : Word) (s : State) :
    moveToRegister npc dst v s = raise .illegalOperandMode s := by
  unfold moveToRegister
  split
  next rel r => exact absurd ((fits_R_iff _).mpr ⟨rel, r, rfl⟩) h
  next => rfl

theorem moveToRegister_precise {npc v : Word} {dst : Operand} (hexec : exec i s = moveToRegister npc dst v s)
    (hmem : (OperandClass.R, dst) ∈ i.form) : Precise i s := by
  by_cases hfits : dst.fits .R = true
  · obtain ⟨rel, r, rfl⟩ := (fits_R_iff dst).mp hfits
    exact precise_of_writesLocation (writeLocation_writes (l := .reg r) hexec) (by decide)
  · exact precise_of_notFits (hexec.trans (moveToRegister_notFits hfits npc v s)) hmem hfits

theorem receive_precise {count : Nat} {a b : Operand} (hexec : exec i s = receive count a b s) : Precise i s :=
  precise_of_completes (receive_completes hexec) fun _ ⟨_, _, units⟩ => units.only .fault (by decide)

end Precision

/-! ## Instructions with a shape of their own -/

section Own

variable (a b : Operand) (s : State)

theorem div_precise : Precise (.div a) s := by
  by_cases hzero : operandValue .first (nextIp [a] s) a s = 0
  · exact precise_of_raise (exec_div_zero hzero) (.divisor a (.inl rfl) hzero)
  · exact precise_of_next (exec_div_of_ne_zero hzero) rfl

theorem idiv_precise : Precise (.idiv a) s := by
  by_cases hzero : operandValue .first (nextIp [a] s) a s = 0
  · exact precise_of_raise (exec_idiv_zero hzero) (.divisor a (.inr rfl) hzero)
  · exact precise_of_next (exec_idiv_of_ne_zero hzero) rfl

theorem mov_precise : Precise (.mov a b) s := by
  by_cases hfits : a.fits .VI = true
  · exact moveToRegister_precise (exec_mov hfits b s) (List.mem_cons_of_mem _ (List.mem_singleton_self _))
  · exact precise_of_notFits (if_neg hfits) (List.mem_cons_self ..) hfits

theorem exec_st_notFits (h : ¬ b.fits .M = true) : exec (.st a b) s = raise .illegalOperandMode s := by
  have plain : operandForm b = .plain := not_not.mp (mt (fits_M_iff b).mpr h)
  cases b <;> simp only [operandForm] at plain <;> subst plain <;> rfl

theorem st_precise : Precise (.st a b) s := by
  by_cases hfits : b.fits .M = true
  · obtain ⟨addr, hl⟩ := exists_address_of_fits_M hfits
    exact precise_of_next (exec_st hl) rfl
  · exact precise_of_notFits (exec_st_notFits a b s hfits) (List.mem_cons_of_mem _ (List.mem_singleton_self _)) hfits

theorem pop_precise : Precise (.pop a) s := by
  cases hl : operandLocation .first (nextIp [a] s) a s with
  | some l =>
    obtain ⟨refused, odd, even⟩ := popWritesThenMovesSp a s l hl
    by_cases hw : l = .reg .fl ∨ l = .reg .iid
    · exact precise_of_refused (refused hw)
    · obtain ⟨hfl, hiid⟩ := not_or.mp hw
      cases hsp : s.sp.getLsbD 0
      · exact precise_of_completes (even hfl hiid hsp) fun t ⟨written, _⟩ => written.fault_eq (by decide)
      · exact precise_of_refused (odd hfl hiid hsp)
  | none =>
    have hexec : exec (.pop a) s = raise .illegalOperandMode s := by simp only [exec, execPop, hl]
    exact precise_of_notFits hexec (List.mem_singleton_self _) (notFits_L_of_noLocation hl)

theorem int_precise : Precise (.int a) s := by
  by_cases hfits : a.fits .I = true
  · obtain ⟨rel, v, rfl⟩ := (fits_I_iff a).mp hfits
    obtain ⟨masked, zero, odd, even⟩ := intEntersTheInterrupt rel v s
    cases hie : getFlag .ie s.fl
    · exact precise_of_completes (masked hie) fun t ⟨_, only⟩ => only .fault (by decide)
    · exact precise_of_push (fun hsp => .stack _ (.inr (.inr ⟨rfl, hie⟩)) hsp) (zero hie) (odd hie) (even hie)
        fun t ⟨_, _, written, _⟩ => written.fault_eq (by decide)
  · exact precise_of_notFits (if_neg hfits) (List.mem_singleton_self _) hfits

theorem ret_precise : Precise .ret s := by
  cases hsp : s.sp.getLsbD 0
  · exact precise_of_next (exec_ret hsp) rfl
  · exact precise_of_refused (returnsWithOddSpAreRefused s hsp).1

theorem iret_precise : Precise .iret s := by
  cases hsp : s.sp.getLsbD 0
  · exact precise_of_next (exec_iret hsp) rfl
  · exact precise_of_refused (returnsWithOddSpAreRefused s hsp).2

theorem bot_precise : Precise (.bot a b) s := by
  refine precise_of_next (exec_bot a b s) ?_
  exact sendUnits_onlyChanges _ _ s .fault (by decide)

end Own

/-! ## Every instruction -/

/-- Every instruction is precise: what it has done is dropped when it raises (60_exceptions.md R241, R258). -/
theorem exec_precise (i : Instr) (s : State) : Precise i s := by
  cases i with
  | adc | add | sub | cmp | mul | imul | and | or | xor | test => exact precise_of_next rfl rfl
  | jmp | jz | jg | jge | jl | jle | jc | js | jnz | jnc | jns | nop => exact precise_of_next rfl rfl
  | clo | clc | clz | cln | cli | sto | stc | stz | stn | sti | out => exact precise_of_next rfl rfl
  | inc | dec => exact modifyRegister_precise rfl (List.mem_singleton_self _)
  | neg | not => exact modifyLocation_precise rfl (List.mem_singleton_self _)
  | sl a b => exact modifyLocation_precise (exec_sl a b s) (List.mem_cons_self ..)
  | sr a b => exact modifyLocation_precise (exec_sr a b s) (List.mem_cons_self ..)
  | rol a b => exact modifyLocation_precise (exec_rol a b s) (List.mem_cons_self ..)
  | ror a b => exact modifyLocation_precise (exec_ror a b s) (List.mem_cons_self ..)
  | ld => exact moveToRegister_precise rfl (List.mem_cons_self ..)
  | push a => exact precise_of_pushesAndGoesTo (.stack a (.inl rfl)) (pushStoresBelowSp a s)
  | call a => exact precise_of_pushesAndGoesTo (.stack a (.inr (.inl rfl))) (callPushesTheNextAddress a s)
  | inp => exact receive_precise (count := 1) rfl
  | bin => exact receive_precise rfl
  | div a => exact div_precise a s
  | idiv a => exact idiv_precise a s
  | mov a b => exact mov_precise a b s
  | st a b => exact st_precise a b s
  | pop a => exact pop_precise a s
  | int a => exact int_precise a s
  | ret => exact ret_precise s
  | iret => exact iret_precise s
  | bot a b => exact bot_precise a b s

/-- A mark that was not there before is that of a cause the instruction can raise, and all that has changed. -/
theorem raised_of_exec {i : Instr} {s t : State} {c : Cause} (hs : s.fault = none) (hexec : exec i s = .next t)
    (ht : t.fault = some c) : RaisedBy i s c ∧ t = s.setFault (some c) := by
  obtain hkept | ⟨d, hd, rfl⟩ := exec_precise i s t hexec
  · simp [hkept, hs] at ht
  · obtain rfl : d = c := by simpa using ht
    exact ⟨hd, rfl⟩

/-- Settles O20: the part of `exec_precise` about the state. -/
theorem exceptionsArePrecise : Obligations.ExceptionsArePrecise := by
  intro i s t hs hexec ht
  obtain ⟨c, hc⟩ := Option.ne_none_iff_exists'.mp ht
  obtain ⟨-, rfl⟩ := raised_of_exec hs hexec hc
  rfl

/-- Settles O21: the part of `exec_precise` about the cause, of which well-formedness leaves two. -/
theorem executionCausesAreTwo : Obligations.ExecutionCausesAreTwo := by
  intro i s t c hwf hs hexec hc
  obtain ⟨raised, -⟩ := raised_of_exec hs hexec hc
  cases raised with
  | divisor a hi hzero => exact .inl ⟨rfl, a, hi, hzero⟩
  | stack a hi hsp => exact .inr ⟨rfl, hsp, a, hi⟩
  | mode hi => simp [hi] at hwf

end Sys2Proof.Machine

namespace Sys2Proof

/-! ## The decoder's exceptions -/

/-- The opcodes without a row are the 201 of 30_encoding.md R108. -/
theorem rowOf_eq_none_iff (opcode : Byte) :
    rowOf opcode = none ↔
      opcode.toNat = 0x06 ∨ (0x30 ≤ opcode.toNat ∧ opcode.toNat ≤ 0x3A) ∨
        (0x40 ≤ opcode.toNat ∧ opcode.toNat ≤ 0x4A) ∨ 0x4E ≤ opcode.toNat := by
  unfold rowOf
  split
  case h_56 =>
    simp only [imp_false, true_iff] at *
    omega
  all_goals
    simp only [reduceCtorEq, false_iff]
    omega

/-- That an opcode is assigned is known before any operand is decoded (R111). -/
theorem decodeOperand_ne_illegalOpcode (c : OperandClass) (m : BitVec 4) (bs : List Byte) :
    decodeOperand c m bs ≠ .error .illegalOpcode := by
  unfold decodeOperand
  split
  · simp
  · split
    · split
      · split
        · split <;> simp
        · simp
      · split <;> simp
    · simp

section Rows

variable {c d : OperandClass} {mode1 mode2 : BitVec 4} {bs : List Byte} {e : DecodeError}

theorem Row.decode_one_error (h : decodeOperand c mode1 bs = .error e) (mk : Operand → Instr) (mode2 : BitVec 4) :
    (Row.one c mk).decode mode1 mode2 bs = .error e := by
  simp only [Row.decode, h]

theorem Row.decode_two_error_first (h : decodeOperand c mode1 bs = .error e) (d : OperandClass)
    (mk : Operand → Operand → Instr) (mode2 : BitVec 4) : (Row.two c d mk).decode mode1 mode2 bs = .error e := by
  simp only [Row.decode, h]

theorem Row.decode_two_error_second {a : Operand} {rest : List Byte} (ha : decodeOperand c mode1 bs = .ok (a, rest))
    (h : decodeOperand d mode2 rest = .error e) (mk : Operand → Operand → Instr) :
    (Row.two c d mk).decode mode1 mode2 bs = .error e := by
  simp only [Row.decode, ha, h]

end Rows

theorem Row.decode_ne_illegalOpcode (row : Row) (mode1 mode2 : BitVec 4) (bs : List Byte) :
    row.decode mode1 mode2 bs ≠ .error .illegalOpcode := by
  cases row with
  | zero i =>
    simp only [Row.decode]
    split <;> simp
  | one c mk =>
    cases ha : decodeOperand c mode1 bs with
    | error e =>
      rw [Row.decode_one_error ha]
      simpa [ha] using decodeOperand_ne_illegalOpcode c mode1 bs
    | ok p =>
      simp only [Row.decode, ha]
      split <;> simp
  | two c d mk =>
    cases ha : decodeOperand c mode1 bs with
    | error e =>
      rw [Row.decode_two_error_first ha]
      simpa [ha] using decodeOperand_ne_illegalOpcode c mode1 bs
    | ok p =>
      obtain ⟨a, rest⟩ := p
      cases hb : decodeOperand d mode2 rest with
      | error e =>
        rw [Row.decode_two_error_second ha hb]
        simpa [hb] using decodeOperand_ne_illegalOpcode d mode2 rest
      | ok q => simp [Row.decode, ha, hb]

/-- The decoder answers IllegalOpcode exactly for an opcode without a row (R108, R111). -/
theorem decodeWord_illegalOpcode_iff (w : Word) (bs : List Byte) :
    decodeWord w bs = .error .illegalOpcode ↔ rowOf (hiByte w) = none := by
  cases hrow : rowOf (hiByte w) with
  | none => simp [decodeWord, hrow]
  | some row =>
    rw [decodeWord_of_row hrow]
    simpa using row.decode_ne_illegalOpcode _ _ bs

end Sys2Proof

namespace Sys2Proof.Machine

/-- The decoder's view of what the step fetches once the boundary's input is taken. -/
theorem decode_fetch_takeInput (s : State) :
    decode (fetchBytes (takeInput s)) =
      decodeWord (loadWord .fetch s.ip (takeInput s)) ((fetchBytes (takeInput s)).drop 2) := by
  rw [decode_fetchBytes, takeInput_ip]

/-- Each cause that the decoder raises is that of the check which failed. -/
theorem rejectBytes_illegalOpcode {e : DecodeError} {s t : State} (h : rejectBytes e s = .next t)
    (ht : t.fault = some .illegalOpcode) : e = .illegalOpcode := by
  cases e
  case illegalOpcode => rfl
  case unusedModeField | truncated => cases h
  all_goals
    cases h
    cases ht

/-- A running machine is marked with IllegalOpcode by the decoder alone: no instruction raises it. -/
theorem decode_of_runInstruction_illegalOpcode {s t : State} (hs : s.fault = none) (h : runInstruction s = .next t)
    (ht : t.fault = some .illegalOpcode) : decode (fetchBytes s) = .error .illegalOpcode := by
  cases hd : decode (fetchBytes s) with
  | ok i =>
    rw [runInstruction_of_ok hd] at h
    obtain ⟨raised, -⟩ := raised_of_exec hs h ht
    cases raised
  | error e =>
    rw [runInstruction_of_error hd] at h
    rw [rejectBytes_illegalOpcode h ht]

/-- Settles O5: the opcode has no row exactly in the ranges of R108, and nothing but the missing row raises it. -/
theorem unassignedOpcodeRaisesIllegalOpcode : Obligations.UnassignedOpcodeRaisesIllegalOpcode := by
  intro s hs op unassigned
  have decoded : decode (fetchBytes (takeInput s)) = .error .illegalOpcode ↔ unassigned := by
    rw [decode_fetch_takeInput, decodeWord_illegalOpcode_iff, rowOf_eq_none_iff]
  refine ⟨fun hop => step_of_decode_error hs (decoded.mpr hop), fun hop t hstep ht => hop (decoded.mp ?_)⟩
  rw [step_of_undisturbed hs] at hstep
  obtain ⟨hfault, -, -⟩ := hs
  exact decode_of_runInstruction_illegalOpcode ((takeInput_fault s).trans hfault) hstep ht

/-- Settles O6: the first of the row's operands whose mode field has no form is the error of the row. -/
theorem badModeBitsRaiseInvalidAddressingMode : Obligations.BadModeBitsRaiseInvalidAddressingMode := by
  intro s hs w mode1 mode2 raised
  have step_raises {row : Row} (hrow : rowOf (hiByte w) = some row)
      (hbad : row.decode mode1 mode2 ((fetchBytes (takeInput s)).drop 2) = .error .invalidAddressingMode) :
      step s = raised := by
    have failed : decode (fetchBytes (takeInput s)) = .error .invalidAddressingMode := by
      rw [decode_fetch_takeInput, decodeWord_of_row hrow, hbad]
    exact step_of_decode_error hs failed
  have noForm {m : BitVec 4} (hm : m &&& 0b0011 = 0b0011) (c : OperandClass) (bs : List Byte) :
      decodeOperand c m bs = .error .invalidAddressingMode :=
    decodeOperand_noForm ((formOfMode_eq_none_iff m).mpr hm) bs
  refine ⟨fun c mk hrow hm => ?_, fun c d mk hrow hm => ?_, fun c d mk a rest hrow ha hm => ?_⟩
  · exact step_raises hrow (Row.decode_one_error (noForm hm c _) mk mode2)
  · exact step_raises hrow (Row.decode_two_error_first (noForm hm c _) d mk mode2)
  · exact step_raises hrow (Row.decode_two_error_second ha (noForm hm d _) mk)

/-! ## Before the instruction -/

/-- Settles O10: at such a boundary the step is the input taken, which keeps the mark. -/
theorem faultStatePersists : Obligations.FaultStatePersists := by
  intro s c hfault hreset
  exact ⟨step_of_fault hfault hreset, (takeInput_fault s).trans hfault⟩

theorem placeBytes_setInputs (ps : List (Word × Byte)) (l : List Boundary) (s : State) :
    placeBytes ps (s.setInputs l) = (placeBytes ps s).setInputs l := by
  induction ps generalizing s with
  | nil => rfl
  | cons p ps ih => exact ih (writeByte p.1 p.2 s)

/-- Taking a boundary's input keeps nothing of its request (60_exceptions.md R253). -/
theorem takeInput_cons (s : State) (b : Boundary) (later : List Boundary) :
    takeInput { s with inputs := b :: later } =
      ((placeBytes b.memory s).setMemAnswers b.answers).setInputs later :=
  congrArg (fun t => (t.setMemAnswers b.answers).setInputs later) (placeBytes_setInputs b.memory (b :: later) s)

/-- With IE = 0 a step is known from RESET and the state whose input is taken: no other part of the step reads the
request (60_exceptions.md R259). -/
theorem step_eq_of_takeInput {s t : State} (htaken : takeInput s = takeInput t)
    (hreset : (boundaryInput s).reset = (boundaryInput t).reset) (hie : getFlag .ie s.fl = false) :
    step s = step t := by
  have hfault : s.fault = t.fault := by rw [← takeInput_fault s, htaken, takeInput_fault]
  have hfl : s.fl = t.fl := by rw [← takeInput_fl s, htaken, takeInput_fl]
  cases hr : (boundaryInput t).reset
  · cases hf : t.fault with
    | none =>
      rw [step_of_undisturbed ⟨hfault.trans hf, hreset.trans hr, .inr hie⟩,
        step_of_undisturbed ⟨hf, hr, .inr (hfl ▸ hie)⟩, htaken]
    | some c => rw [step_of_fault (hfault.trans hf) (hreset.trans hr), step_of_fault hf hr, htaken]
  · rw [step_of_reset (hreset.trans hr), step_of_reset hr, htaken]

/-- Settles O13: the two boundaries differ in the request alone, which is dropped when the input is taken. -/
theorem maskedRequestLeavesNoTrace : Obligations.MaskedRequestLeavesNoTrace := by
  intro s b later hie
  have taken := (takeInput_cons s b later).trans (takeInput_cons s { b with irq := none } later).symm
  exact step_eq_of_takeInput taken rfl hie

/-- Below reset and the fault state, with IE set, a request is accepted (60_exceptions.md R253, R259). -/
theorem step_of_accepted {s : State} {id : Byte} (hfault : s.fault = none) (hreset : (boundaryInput s).reset = false)
    (hirq : (boundaryInput s).irq = some id) (hie : getFlag .ie s.fl = true) :
    step s = conclude (takeInput s) (enterInterrupt (id.setWidth 16) s.ip (takeInput s)) := by
  rw [step_of_running hfault hreset, hirq, ← ofHiLo_zero_eq_setWidth]
  simp only [runBoundary, takeInput_fl, if_pos hie, acceptInterrupt, takeInput_ip]

/-- Settles O12: the three cases of the push inside the interrupt entry, in the state whose input is taken. -/
theorem hardwareInterruptEntry : Obligations.HardwareInterruptEntry := by
  intro s id hfault hreset hirq hie
  have accepted := step_of_accepted hfault hreset hirq hie
  have sameSp := takeInput_sp s
  refine ⟨fun hzero => ?_, fun hodd => ?_, fun hne heven => ?_⟩
  · rw [accepted, enterInterrupt_zero (sameSp.trans hzero), conclude_raise]
    rfl
  · rw [accepted, enterInterrupt_odd (by rwa [sameSp]), conclude_refuse]
  · obtain ⟨t, hentry, hiid, hsp, hfl, pushed⟩ :=
      enterInterrupt_after (s := takeInput s) (by rwa [sameSp]) (by rwa [sameSp]) (id.setWidth 16) s.ip
    rw [sameSp] at hsp pushed
    rw [takeInput_fl] at hfl
    refine ⟨t, by rw [accepted, hentry, conclude_ok], hiid, hsp, pushed, ?_, ?_⟩
    · rw [hfl, getFlag_putFlag, if_pos rfl]
    · rw [flagsSameExcept_iff, hfl]
      exact (FlagBitsKept.refl _ s.fl).putFlag (List.mem_singleton_self _) false

end Sys2Proof.Machine

/-! Proofs about the step as a whole (spec 70_reset_and_hazards.md): what taking a boundary's input and the reset
sequence leave, and that a machine which has ended its run stands still. The last rests on one fact: at such a boundary
the step is the input taken, after which the run has ended again. -/

namespace Sys2Proof.Machine

/-! ## Frames of the boundary's pieces -/

theorem setMem_onlyChanges (m : List Host.Cell) (s : State) : OnlyChanges [.mem] s (s.setMem m) := by
  intro p hp
  have kept := p.same_refl s
  cases p <;> simp at hp <;> exact kept

theorem setInputs_onlyChanges (l : List Boundary) (s : State) : OnlyChanges [.inputs] s (s.setInputs l) := by
  intro p hp
  have kept := p.same_refl s
  cases p <;> simp at hp <;> exact kept

theorem setFault_onlyChanges (c : Option Cause) (s : State) : OnlyChanges [.fault] s (s.setFault c) := by
  intro p hp
  have kept := p.same_refl s
  cases p <;> simp at hp <;> exact kept

/-! ## Taking the input -/

theorem takeInput_onlyChanges (s : State) : OnlyChanges [.inputs, .mem, .memAnswers] s (takeInput s) := by
  have frame : OnlyChanges [.mem, .memAnswers, .inputs] s (takeInput s) := by
    rw [takeInput_frame]
    exact ((setMem_onlyChanges _ s).trans (setMemAnswers_onlyChanges _ _)).trans (setInputs_onlyChanges _ _)
  exact frame.relist (by simp)

/-- Once the input is taken, memory is as the memory peer's bytes leave it. -/
theorem readByte_takeInput (a : Word) (s : State) :
    readByte a (takeInput s) = readByte a (placeBytes (boundaryInput s).memory s) :=
  readByte_congr rfl a

/-- The last byte placed at an address is the one that stands there. -/
theorem readByte_placeBytes_last {before after : List (Word × Byte)} {a : Word} (h : ∀ p ∈ after, p.1 ≠ a) (b : Byte)
    (s : State) : readByte a (placeBytes (before ++ (a, b) :: after) s) = b := by
  rw [placeBytes_append, placeBytes, readByte_placeBytes_outside h, readByte_writeByte, if_pos rfl]

/-! ## The decoded instruction -/

theorem step_of_decode_ok {s : State} {i : Instr} (hs : Undisturbed s)
    (h : decode (fetchBytes (takeInput s)) = .ok i) : step s = exec i (takeInput s) := by
  rw [step_of_undisturbed hs, runInstruction_of_ok h]

/-- Settles O8: an undisturbed step runs what it fetches, and the input is taken byte by byte in the list's order. -/
theorem stepRunsTheDecodedInstruction : Obligations.StepRunsTheDecodedInstruction := by
  refine ⟨fun s i => step_of_decode_ok, fun s => ⟨rfl, rfl, takeInput_onlyChanges s, fun a h => ?_, ?_⟩⟩
  · rw [readByte_takeInput, readByte_placeBytes_outside h]
  · intro before after a b hplaced hlast
    rw [readByte_takeInput, hplaced, readByte_placeBytes_last hlast]

/-! ## Reset -/

theorem resetSequence_onlyChanges (s : State) : OnlyChanges [.fl, .ip, .fault] s (resetSequence s) := by
  rw [resetSequence_eq]
  exact ((setFl_onlyChanges 0 s).trans (setIp_onlyChanges _ _)).trans (setFault_onlyChanges none _)

/-- Settles O11: the step is the reset sequence, in the state whose input is taken. -/
theorem resetClearsFlagsAndLoadsVector : Obligations.ResetClearsFlagsAndLoadsVector := by
  intro s hreset
  refine ⟨_, step_of_reset hreset, ?_, ?_, ?_, ?_, resetSequence_onlyChanges _⟩
  all_goals
    rw [resetSequence_eq]
    rfl

/-! ## A JMP to its own address -/

/-- The word 0x1000 is JMP with mode 0000, and its literal is the word after it (30_encoding.md R91, R97, R107). -/
theorem decodeWord_jmp_immediate (x y : Byte) (rest : List Byte) :
    decodeWord 0x1000 (x :: y :: rest) = .ok (.jmp (.lit .plain false (wordOfBytes x y))) := rfl

/-- The four bytes fetched after the instruction word begin with the word at IP + 2. -/
theorem fetchBytes_drop_two (s : State) :
    ∃ x y rest, (fetchBytes s).drop 2 = x :: y :: rest ∧ wordOfBytes x y = loadWord .fetch (s.ip + 2) s := by
  have hnext : s.ip + 2 + 1 = s.ip + 3 := BitVec.add_assoc s.ip 2 1
  exact ⟨_, _, _, rfl, by rw [loadWord, hnext]; rfl⟩

theorem decode_jmp_immediate {s : State} (hword : loadWord .fetch s.ip s = 0x1000) :
    decode (fetchBytes s) = .ok (.jmp (.lit .plain false (loadWord .fetch (s.ip + 2) s))) := by
  obtain ⟨x, y, rest, hdrop, hliteral⟩ := fetchBytes_drop_two s
  rw [decode_fetchBytes, hword, hdrop, decodeWord_jmp_immediate, hliteral]

/-- JMP of an immediate writes IP and nothing else (43_control_flow.md R186). -/
theorem exec_jmp_immediate (rel : Bool) (v : Word) (s : State) :
    exec (.jmp (.lit .plain rel v)) s = .next (s.setIp v) := by
  simp only [exec, execJmp, jumpIf, operandValue_immediate, if_true]

theorem setIp_self (s : State) : s.setIp s.ip = s := rfl

/-- A JMP to its own address, with no answer of the environment to its fetch, changes nothing. -/
theorem runInstruction_jumpToSelf {s : State} (hanswers : s.memAnswers = []) (hword : readWord s.ip s = 0x1000)
    (htarget : readWord (s.ip + 2) s = s.ip) : runInstruction s = .next s := by
  have fetched (a : Word) : loadWord .fetch a s = readWord a s :=
    loadWord_of_noAnswer (by rw [hanswers]; exact nofun)
  rw [runInstruction_of_ok (decode_jmp_immediate ((fetched _).trans hword)), fetched, htarget, exec_jmp_immediate,
    setIp_self]

/-! ## The end of a run -/

theorem boundaryInput_mem (s : State) : boundaryInput s ∈ s.inputs ∨ boundaryInput s = .quiet := by
  rw [boundaryInput]
  cases s.inputs with
  | nil => exact .inr rfl
  | cons b later => exact .inl (List.mem_cons_self ..)

theorem LeftAlone.boundary {s : State} (h : LeftAlone s) :
    (boundaryInput s).reset = false ∧ (boundaryInput s).memory = [] ∧ (boundaryInput s).answers = [] := by
  obtain hmem | hquiet := boundaryInput_mem s
  · exact h _ hmem
  · rw [hquiet]
    exact ⟨rfl, rfl, rfl⟩

theorem takeInput_of_leftAlone {s : State} (h : LeftAlone s) :
    takeInput s = (s.setMemAnswers []).setInputs s.inputs.tail := by
  obtain ⟨-, hmemory, hanswers⟩ := h.boundary
  rw [takeInput_quiet hmemory, hanswers]

theorem takeInput_leftAlone {s : State} (h : LeftAlone s) : LeftAlone (takeInput s) :=
  fun b hb => h b (List.mem_of_mem_tail hb)

theorem Halted.undisturbed {s : State} (h : Halted s) (hfault : s.fault = none) (halone : LeftAlone s) :
    Undisturbed s := by
  obtain ⟨-, -, hirq⟩ := h
  obtain ⟨hreset, -, -⟩ := halone.boundary
  refine ⟨hfault, hreset, hirq.symm.imp_left fun hnone => ?_⟩
  obtain hmem | hquiet := boundaryInput_mem s
  · exact hnone _ hmem
  · rw [hquiet]
    rfl

/-- A run that has ended has ended in the state whose input is taken, too. -/
theorem takeInput_halted {s : State} (h : Halted s) (halone : LeftAlone s) : Halted (takeInput s) := by
  obtain ⟨hword, htarget, hirq⟩ := h
  rw [takeInput_of_leftAlone halone]
  exact ⟨hword, htarget, hirq.imp_right fun hnone b hb => hnone b (List.mem_of_mem_tail hb)⟩

/-- At the end of a run a step is the boundary's input taken. -/
theorem step_of_halted {s : State} (h : Halted s) (hfault : s.fault = none) (halone : LeftAlone s) :
    step s = .next (takeInput s) := by
  obtain ⟨-, -, hanswers⟩ := halone.boundary
  obtain ⟨hword, htarget, -⟩ := takeInput_halted h halone
  rw [step_of_undisturbed (h.undisturbed hfault halone)]
  exact runInstruction_jumpToSelf hanswers hword htarget

theorem stepMany_succ_of_next {s t : State} (h : step s = .next t) (n : Nat) : stepMany (n + 1) s = stepMany n t := by
  simp only [stepMany, h]

/-- Settles O17, by induction on the number of steps: the first takes the boundary's input, and the run has ended in
what is left. -/
theorem jumpToItselfChangesNothing : Obligations.JumpToItselfChangesNothing := by
  intro s n hhalted hfault halone
  induction n generalizing s with
  | zero => rfl
  | succ n ih =>
    have later :=
      ih (takeInput s) (takeInput_halted hhalted halone) ((takeInput_fault s).trans hfault) (takeInput_leftAlone halone)
    rw [stepMany_succ_of_next (step_of_halted hhalted hfault halone), later, takeInput_of_leftAlone halone]
    simp [State.setInputs, State.setMemAnswers]

end Sys2Proof.Machine

/-! Proofs about the two round trips between bytes and instructions (spec 30_encoding.md): what decodes, for an operand,
a row, an instruction word and a byte list, each as an `↔` with the encoding. -/

namespace Sys2Proof

/-! ## Words and their bytes -/

theorem wordOfBytes_eq_iff {x y : Byte} {w : Word} : wordOfBytes x y = w ↔ [x, y] = wordBytes w := by
  constructor
  · rintro rfl
    exact congrArg₂ (fun a b => [a, b]) (Machine.loByte_ofHiLo y x).symm (Machine.hiByte_ofHiLo y x).symm
  · intro h
    obtain ⟨rfl, rfl⟩ : x = firstByte w ∧ y = secondByte w := by simpa [wordBytes] using h
    exact Machine.wordOfBytes_first_second w

/-- An instruction word and its three fields determine each other (30_encoding.md R91). -/
theorem eq_instructionWord_iff {w : Word} {opcode : Byte} {mode1 mode2 : BitVec 4} :
    w = instructionWord opcode mode1 mode2 ↔
      hiByte w = opcode ∧ w.extractLsb' 4 4 = mode1 ∧ w.extractLsb' 0 4 = mode2 := by
  constructor
  · rintro rfl
    have low (start : Nat) (h : start + 4 ≤ 8) :
        (instructionWord opcode mode1 mode2).extractLsb' start 4 = (mode1 ++ mode2).extractLsb' start 4 :=
      BitVec.extractLsb'_append_eq_of_add_le h
    exact ⟨Machine.hiByte_ofHiLo opcode (mode1 ++ mode2), (low 4 (by decide)).trans BitVec.extractLsb'_append_eq_left,
      (low 0 (by decide)).trans BitVec.extractLsb'_append_eq_right⟩
  · rintro ⟨rfl, rfl, rfl⟩
    have modes : w.extractLsb' 4 4 ++ w.extractLsb' 0 4 = loByte w :=
      BitVec.extractLsb'_append_extractLsb'_eq_extractLsb' (len₂ := 4) rfl
    rw [instructionWord, modes]
    exact (Machine.ofHiLo_hi_lo w).symm

/-! ## Operands -/

theorem Reg.ofNumber_eq_some_iff {b : Byte} {r : Reg} : Reg.ofNumber b = some r ↔ r.number = b := by
  constructor
  · intro h
    by_cases hb : b.toNat ≤ 0x10
    · obtain ⟨r', hr', hnumber⟩ := Reg.ofNumber_of_le hb
      rwa [← Option.some.inj (hr'.symm.trans h)]
    · simp [Reg.ofNumber_of_gt (Nat.lt_of_not_le hb)] at h
  · rintro rfl
    cases r <;> rfl

theorem Operand.mode_lit_eq_iff {form : Form} {rel : Bool} {v : Word} {m : BitVec 4} :
    (Operand.lit form rel v).mode = m ↔
      formOfMode m = some form ∧ m.getLsbD 2 = rel ∧ m.getLsbD 3 = false := by
  simp only [Operand.mode]
  cases form <;> cases rel <;> revert m <;> decide

theorem Operand.mode_reg_eq_iff {form : Form} {rel : Bool} {r : Reg} {m : BitVec 4} :
    (Operand.reg form rel r).mode = m ↔
      formOfMode m = some form ∧ m.getLsbD 2 = rel ∧ m.getLsbD 3 = true := by
  simp only [Operand.mode]
  cases form <;> cases rel <;> revert m <;> decide

section Operand

variable {c : OperandClass} {m : BitVec 4} {bs rest : List Byte}

/-- No operand decodes from a mode field without a form or outside the class (30_encoding.md R95, R110). -/
theorem exists_form_of_decodeOperand_ok {p : Operand × List Byte} (h : decodeOperand c m bs = .ok p) :
    ∃ form, formOfMode m = some form ∧ c.accepts (m.getLsbD 3) form = true := by
  cases hform : formOfMode m with
  | none => simp [decodeOperand_noForm hform] at h
  | some form =>
    cases hc : c.accepts (m.getLsbD 3) form with
    | false => simp [decodeOperand_notAccepted hform hc] at h
    | true => exact ⟨form, rfl, hc⟩

theorem decodeOperand_register_truncated {form : Form} (hform : formOfMode m = some form)
    (hc : c.accepts (m.getLsbD 3) form = true) (hreg : m.getLsbD 3 = true) :
    decodeOperand c m [] = .error .truncated := by
  rw [hreg] at hc
  simp only [decodeOperand, hform, hc, hreg, if_true]

theorem decodeOperand_literal_truncated {form : Form} (hform : formOfMode m = some form)
    (hc : c.accepts (m.getLsbD 3) form = true) (hreg : m.getLsbD 3 = false) (h : bs.length < 2) :
    decodeOperand c m bs = .error .truncated := by
  rw [hreg] at hc
  match bs with
  | [] | [_] => simp only [decodeOperand, hform, hc, hreg, Bool.false_eq_true, if_true, if_false]
  | _ :: _ :: _ => simp at h

/-- What an operand decodes from: its own mode field, in the class, and its literal (30_encoding.md R93, R97, R102). -/
theorem decodeOperand_eq_ok_iff {a : Operand} :
    decodeOperand c m bs = .ok (a, rest) ↔ a.mode = m ∧ a.fits c = true ∧ bs = a.literalBytes ++ rest := by
  constructor
  · intro h
    obtain ⟨form, hform, hc⟩ := exists_form_of_decodeOperand_ok h
    cases hreg : m.getLsbD 3 with
    | true =>
      have hfits : c.accepts true form = true := hreg ▸ hc
      match bs with
      | [] => simp [decodeOperand_register_truncated hform hc hreg] at h
      | x :: tail =>
        cases hx : Reg.ofNumber x with
        | none => simp [decodeOperand_noRegister hform hc hreg hx] at h
        | some r =>
          rw [decodeOperand_register hform hc hreg hx] at h
          cases h
          exact ⟨Operand.mode_reg_eq_iff.mpr ⟨hform, rfl, hreg⟩, hfits,
            congrArg (· :: rest) (Reg.ofNumber_eq_some_iff.mp hx).symm⟩
    | false =>
      have hfits : c.accepts false form = true := hreg ▸ hc
      match bs with
      | [] | [_] => simp [decodeOperand_literal_truncated hform hc hreg] at h
      | x :: y :: tail =>
        rw [decodeOperand_literal hform hc hreg] at h
        cases h
        exact ⟨Operand.mode_lit_eq_iff.mpr ⟨hform, rfl, hreg⟩, hfits, congrArg (· ++ rest) (wordOfBytes_eq_iff.mp rfl)⟩
  · rintro ⟨hmode, hfits, rfl⟩
    cases a with
    | lit form rel v =>
      obtain ⟨hform, rfl, hreg⟩ := Operand.mode_lit_eq_iff.mp hmode
      have hc : c.accepts (m.getLsbD 3) form = true := by rwa [hreg]
      refine (decodeOperand_literal hform hc hreg).trans ?_
      rw [Machine.wordOfBytes_first_second]
      rfl
    | reg form rel r =>
      obtain ⟨hform, rfl, hreg⟩ := Operand.mode_reg_eq_iff.mp hmode
      have hc : c.accepts (m.getLsbD 3) form = true := by rwa [hreg]
      exact decodeOperand_register hform hc hreg (Reg.ofNumber_eq_some_iff.mpr rfl)

end Operand

/-! ## Rows of the opcode map -/

/-- The row makes the instruction `i` of the operands listed, each beside its class (30_encoding.md R107). -/
inductive Row.Makes : Row → Instr → List (OperandClass × Operand) → Prop where
  | zero (i : Instr) : Makes (.zero i) i []
  | one (c : OperandClass) (mk : Operand → Instr) (a : Operand) : Makes (.one c mk) (mk a) [(c, a)]
  | two (c d : OperandClass) (mk : Operand → Operand → Instr) (a b : Operand) :
      Makes (.two c d mk) (mk a b) [(c, a), (d, b)]

/-- The opcode map has one row for each instruction, and it makes that instruction alone (30_encoding.md R107). -/
theorem exists_rowOf_makes_iff {opcode : Byte} {i : Instr} {ops : List (OperandClass × Operand)} :
    (∃ row, rowOf opcode = some row ∧ row.Makes i ops) ↔ opcode = i.opcode ∧ ops = i.form := by
  constructor
  · rintro ⟨row, hrow, hmakes⟩
    unfold rowOf at hrow
    split at hrow
    case h_56 => cases hrow
    all_goals
      next hop =>
        cases hrow
        cases hmakes
        exact ⟨BitVec.eq_of_toNat_eq hop, rfl⟩
  · rintro ⟨rfl, rfl⟩
    cases i
    case iret | nop | ret | clo | clc | clz | cln | cli | sto | stc | stz | stn | sti => exact ⟨_, rfl, .zero _⟩
    case bin | bot | cmp | inp | ld | mov | out | rol | ror | sl | sr | st => exact ⟨_, rfl, .two _ _ _ _ _⟩
    all_goals exact ⟨_, rfl, .one _ _ _⟩

section Rows

variable {c d : OperandClass} {mode1 mode2 : BitVec 4} {bs : List Byte} {i : Instr}

theorem Row.decode_zero_eq_ok_iff {j : Instr} :
    (Row.zero j).decode mode1 mode2 bs = .ok i ↔ j = i ∧ mode1 = 0 ∧ mode2 = 0 := by
  by_cases hmode : mode1 = 0 ∧ mode2 = 0
  · simp [Row.decode, hmode]
  · rw [Row.decode_zero_unused j (not_and_or.mp hmode)]
    exact iff_of_false nofun fun ⟨_, hzero⟩ => hmode hzero

theorem Row.decode_one_eq_ok_iff {mk : Operand → Instr} :
    (Row.one c mk).decode mode1 mode2 bs = .ok i ↔
      ∃ a rest, decodeOperand c mode1 bs = .ok (a, rest) ∧ mode2 = 0 ∧ mk a = i := by
  cases ha : decodeOperand c mode1 bs with
  | error e => simp [Row.decode_one_error ha]
  | ok p =>
    by_cases hmode : mode2 = 0
    · simp [Row.decode, ha, hmode, Prod.ext_iff]
    · rw [Row.decode_one_unused ha hmode]
      exact iff_of_false nofun fun ⟨_, _, _, hzero, _⟩ => hmode hzero

theorem Row.decode_two_eq_ok_iff {mk : Operand → Operand → Instr} :
    (Row.two c d mk).decode mode1 mode2 bs = .ok i ↔
      ∃ a afterA b rest, decodeOperand c mode1 bs = .ok (a, afterA) ∧ decodeOperand d mode2 afterA = .ok (b, rest) ∧
        mk a b = i := by
  cases ha : decodeOperand c mode1 bs with
  | error e => simp [Row.decode_two_error_first ha]
  | ok p =>
    cases hb : decodeOperand d mode2 p.2 with
    | error e => simp [Row.decode_two_error_second ha hb, Prod.ext_iff, hb]
    | ok q => simp [Row.decode, ha, hb, Prod.ext_iff]

/-- What a row decodes from: the mode fields and the literals of the operands of an instruction it makes, each operand in
its class (30_encoding.md R110, R111). -/
theorem Row.decode_eq_ok_iff {row : Row} :
    row.decode mode1 mode2 bs = .ok i ↔
      ∃ ops, row.Makes i ops ∧ (∀ p ∈ ops, p.2.fits p.1 = true) ∧ modeFields (ops.map Prod.snd) = (mode1, mode2) ∧
        ∃ rest, bs = (ops.map Prod.snd).flatMap Operand.literalBytes ++ rest := by
  cases row with
  | zero j =>
    rw [Row.decode_zero_eq_ok_iff]
    constructor
    · rintro ⟨rfl, rfl, rfl⟩
      exact ⟨[], .zero j, by simp, rfl, bs, rfl⟩
    · rintro ⟨ops, ⟨⟩, -, hmodes, -⟩
      obtain ⟨rfl, rfl⟩ := Prod.mk.inj hmodes
      exact ⟨rfl, rfl, rfl⟩
  | one c mk =>
    simp only [Row.decode_one_eq_ok_iff, decodeOperand_eq_ok_iff]
    constructor
    · rintro ⟨a, rest, ⟨rfl, hfits, rfl⟩, rfl, rfl⟩
      exact ⟨[(c, a)], .one c mk a, by simpa using hfits, rfl, rest, by simp⟩
    · rintro ⟨ops, ⟨⟩, hfits, hmodes, rest, rfl⟩
      next a =>
        obtain ⟨rfl, rfl⟩ := Prod.mk.inj hmodes
        exact ⟨a, rest, ⟨rfl, hfits (c, a) (by simp), by simp⟩, rfl, rfl⟩
  | two c d mk =>
    simp only [Row.decode_two_eq_ok_iff, decodeOperand_eq_ok_iff]
    constructor
    · rintro ⟨a, -, b, rest, ⟨rfl, hfitsA, rfl⟩, ⟨rfl, hfitsB, rfl⟩, rfl⟩
      exact ⟨[(c, a), (d, b)], .two c d mk a b, by simp [hfitsA, hfitsB], rfl, rest, by simp⟩
    · rintro ⟨ops, ⟨⟩, hfits, hmodes, rest, rfl⟩
      next a b =>
        obtain ⟨rfl, rfl⟩ := Prod.mk.inj hmodes
        exact ⟨a, b.literalBytes ++ rest, b, rest, ⟨rfl, hfits (c, a) (by simp), by simp⟩,
          ⟨rfl, hfits (d, b) (by simp), rfl⟩, rfl⟩

end Rows

/-! ## Instructions -/

theorem Instr.wellFormed_iff (i : Instr) : i.wellFormed = true ↔ ∀ p ∈ i.form, p.2.fits p.1 = true := List.all_eq_true

theorem decodeWord_eq_ok_iff {w : Word} {bs : List Byte} {i : Instr} :
    decodeWord w bs = .ok i ↔
      i.wellFormed = true ∧
        w = instructionWord i.opcode (modeFields i.operands).1 (modeFields i.operands).2 ∧
        ∃ rest, bs = i.operands.flatMap Operand.literalBytes ++ rest := by
  calc decodeWord w bs = .ok i
    _ ↔ ∃ row, rowOf (hiByte w) = some row ∧ row.decode (w.extractLsb' 4 4) (w.extractLsb' 0 4) bs = .ok i := by
      cases hrow : rowOf (hiByte w) with
      | none => simp [decodeWord, hrow]
      | some row => simp [decodeWord_of_row hrow]
    _ ↔ ∃ ops, (hiByte w = i.opcode ∧ ops = i.form) ∧ (∀ p ∈ ops, p.2.fits p.1 = true) ∧
          modeFields (ops.map Prod.snd) = (w.extractLsb' 4 4, w.extractLsb' 0 4) ∧
          ∃ rest, bs = (ops.map Prod.snd).flatMap Operand.literalBytes ++ rest := by
      simp only [← exists_rowOf_makes_iff, Row.decode_eq_ok_iff]
      constructor
      · rintro ⟨row, hrow, ops, hmakes, h⟩
        exact ⟨ops, ⟨row, hrow, hmakes⟩, h⟩
      · rintro ⟨ops, ⟨row, hrow, hmakes⟩, h⟩
        exact ⟨row, hrow, ops, hmakes, h⟩
    _ ↔ _ := by
      rw [eq_instructionWord_iff, Instr.wellFormed_iff]
      constructor
      · rintro ⟨ops, ⟨hopcode, rfl⟩, hfits, hmodes, hbs⟩
        obtain ⟨hmode1, hmode2⟩ := Prod.ext_iff.mp hmodes
        exact ⟨hfits, ⟨hopcode, hmode1.symm, hmode2.symm⟩, hbs⟩
      · rintro ⟨hfits, ⟨hopcode, hmode1, hmode2⟩, hbs⟩
        exact ⟨_, ⟨hopcode, rfl⟩, hfits, Prod.ext hmode1.symm hmode2.symm, hbs⟩

/-- Bytes decode to an instruction exactly when it is well-formed and they begin with its encoding. -/
theorem decode_eq_ok_iff {bytes : List Byte} {i : Instr} :
    decode bytes = .ok i ↔ i.wellFormed = true ∧ ∃ rest, bytes = encode i ++ rest := by
  match bytes with
  | [] | [x] => simp [decode, encode, wordBytes]
  | x :: y :: bs =>
    rw [decode, decodeWord_eq_ok_iff, wordOfBytes_eq_iff]
    simp [encode, wordBytes, and_assoc]

/-- Settles O1: one direction of `decode_eq_ok_iff`. -/
theorem decodeOfEncodeIsTheInstruction : Obligations.DecodeOfEncodeIsTheInstruction :=
  fun _ rest hwf => decode_eq_ok_iff.mpr ⟨hwf, rest, rfl⟩

/-- Settles O2: the other direction of `decode_eq_ok_iff`. -/
theorem decodedBytesBeginWithTheEncoding : Obligations.DecodedBytesBeginWithTheEncoding :=
  fun _ _ h => decode_eq_ok_iff.mp h

end Sys2Proof
